-- ==== Sys2Proof/Word.lean ====
section
/-! DEFINITION. The plain words of the block: a level, a character cell, a segment pattern, and the
words of the three encoding formats (`spec/00_scope.md` R9, `spec/30_encoding.md` R60, R64, R66, R67). -/

namespace Sys2Proof

/-- A level is one bit, 0 or 1 (R9). -/
abbrev Level := BitVec 1

/-- `LIT`: the level 0 of a segment-driving line (R9). -/
abbrev Level.lit : Level := 0#1

/-- `DARK`: the level 1 of a segment-driving line (R9). -/
abbrev Level.dark : Level := 1#1

/-- A boolean as a level: `true` is 1 and `false` is 0 (R9). -/
abbrev Level.ofBool (b : Bool) : Level := BitVec.ofBool b

/-- A character is one cell holding an 8-bit code (R60). -/
abbrev Char8 := BitVec 8

/-- A SegmentPattern: an ordered sequence of exactly 8 levels, `p[0..7]` (R64). -/
abbrev Pattern := Vector Level 8

/-- The words the block and its caller deal in, one form per format of the opcode table (R70): a
character code, an operation number with its operand cells, a phase code. The three formats are three
number spaces: the same number means different things in different formats. -/
inductive Word where
  /-- Format `CHAR8`: one 8-bit character code (R60). -/
  | char8 (c : Char8)
  /-- Format `OP`: a 2-bit operation number and the character cells of its operand (R66). -/
  | op (n : BitVec 2) (operand : List Char8)
  /-- Format `PHASE3`: the 3-bit code of the sequencer's phase (R67). -/
  | phase3 (p : BitVec 3)
  deriving DecidableEq, Repr

end Sys2Proof
end

