-- ==== Sys2Proof/Syntax.lean ====
section
/-! DEFINITION. The instructions: one constructor per row of `spec/opcode_table.json`, and the data an
operand or a result is made of (`spec/30_encoding.md` R61, R65, R66, R67, R70). -/

namespace Sys2Proof

/-- The 13 glyph characters, the encoder's input domain (R61). -/
inductive Glyph where
  | space | d0 | d1 | d2 | d3 | d4 | d5 | d6 | d7 | d8 | d9
  /-- Uppercase `'E'`. -/
  | letterE
  /-- Lowercase `'r'`. -/
  | letterR
  deriving DecidableEq, Repr

/-- What a frame decode yields: exactly 4 glyph characters and exactly 4 point flags, index 0 leftmost
(R65, `spec/41_frame_decode.md` R100). -/
structure Frame where
  digits : Vector Glyph 4
  points : Vector Bool 4
  deriving DecidableEq, Repr

/-- The rows of the opcode table (R70): 13 glyph characters and the point marker (`CHAR8`), three
operations (`OP`), six step kinds (`PHASE3`). -/
inductive Instr where
  /-- `SPACE` (R82). -/
  | space
  /-- `DIGIT_0` (R83). -/
  | digit0
  /-- `DIGIT_1` (R84). -/
  | digit1
  /-- `DIGIT_2` (R85). -/
  | digit2
  /-- `DIGIT_3` (R86). -/
  | digit3
  /-- `DIGIT_4` (R87). -/
  | digit4
  /-- `DIGIT_5` (R88). -/
  | digit5
  /-- `DIGIT_6` (R89). -/
  | digit6
  /-- `DIGIT_7` (R90). -/
  | digit7
  /-- `DIGIT_8` (R91). -/
  | digit8
  /-- `DIGIT_9` (R92). -/
  | digit9
  /-- `LETTER_E` (R93). -/
  | letterE
  /-- `LETTER_r` (R94). -/
  | letterR
  /-- `POINT` (R105). -/
  | point
  /-- `ENCODE`: `encode(c)` (R80). -/
  | encode (c : Char8)
  /-- `DECODE_FRAME`: `decode_frame(t)` (R100). -/
  | decodeFrame (t : List Char8)
  /-- `RENDER`: `render(t)`, one whole multiplex cycle (R120). -/
  | render (t : List Char8)
  /-- `ACCEPT` (R122). -/
  | accept
  /-- `SEG_WRITE` (R123). -/
  | segWrite
  /-- `DP_WRITE` (R124). -/
  | dpWrite
  /-- `DIG_ON` (R125). -/
  | digOn
  /-- `DWELL` (R126). -/
  | dwell
  /-- `DIG_OFF` (R127). -/
  | digOff
  deriving DecidableEq, Repr

end Sys2Proof
end

