-- ==== Sys2Proof/Config.lean ====
section
/-! DEFINITION. What one instance of the block fixes (the parameters of `spec/00_scope.md` R6) and the
free values (`spec/93_implementation_defined.md` U3, U4). -/

namespace Sys2Proof

/-- The parameters R6 calls "parameter". They are constants of a given instance of the block, not state
(`spec/10_state.md` R27); the state carries them in one field that nothing writes, so that a claim over
all states is a claim over all parameters (log 1). -/
structure Config where
  /-- `SEGTAB`: one pattern per glyph character, in the order of `Glyph.index` (R42). -/
  segtab : Vector Pattern 13
  /-- `DIG_ACTIVE`: the level that activates a digit-select line. -/
  digActive : Level
  /-- `DWELL_TICKS`: number of DWELL steps per digit. -/
  dwellTicks : Nat
  /-- `TEXT_MAX`: the longest display string the request latch holds. -/
  textMax : Nat
  /-- `IO_MAY_FAIL`: whether a line write can fail. -/
  ioMayFail : Bool
  deriving DecidableEq, Repr

/-- The bounds R6 puts on the parameters: `DWELL_TICKS` is an integer >= 1, `TEXT_MAX` an integer >= 8. -/
abbrev Config.Admissible (c : Config) : Prop := 1 ≤ c.dwellTicks ∧ 8 ≤ c.textMax

/-- FREE VALUE (U4, log 4): whether the `k`-th line write fails, where the state lists no answer of the
collaborator for it. -/
opaque Config.writeFails : Nat → Bool

/-- FREE VALUE (U3, log 5): the level of the line after the `k`-th line write, if that write failed. -/
opaque Config.levelAfterFailure : Nat → Level

end Sys2Proof
end

