-- ==== Sys2Proof/Machine/Table.lean ====
section
/-! DEFINITION. The encoder's table: its order, its look-up, and the default values of the parameters
(`spec/00_scope.md` R6; the default patterns of `spec/40_segment_encoder.md` R82 to R94, general
knowledge by `spec/93_implementation_defined.md` G2, log 17). -/

namespace Sys2Proof.Machine

/-- The table's entry for a glyph character: the order of the rows of the opcode table. -/
def glyphIndex : Glyph → Fin 13
  | .space => 0
  | .d0 => 1
  | .d1 => 2
  | .d2 => 3
  | .d3 => 4
  | .d4 => 5
  | .d5 => 6
  | .d6 => 7
  | .d7 => 8
  | .d8 => 9
  | .d9 => 10
  | .letterE => 11
  | .letterR => 12

/-- `ENCODE(c)` on the glyph characters, `SEGTAB(c)` (R80): a function of the character and the table
alone, typed so that the undefined case of R81 cannot be written. -/
def encodeGlyph (cfg : Config) (g : Glyph) : Pattern := cfg.segtab[glyphIndex g]

/-- The default table, levels `p[0]` to `p[7]` (R82 to R94). -/
def defaultSegtab : Vector Pattern 13 := #v[
  #v[1, 1, 1, 1, 1, 1, 1, 1],
  #v[0, 0, 0, 0, 0, 0, 1, 1],
  #v[1, 0, 0, 1, 1, 1, 1, 1],
  #v[0, 0, 1, 0, 0, 1, 0, 1],
  #v[0, 0, 0, 0, 1, 1, 0, 1],
  #v[1, 0, 0, 1, 1, 0, 0, 1],
  #v[0, 1, 0, 0, 1, 0, 0, 1],
  #v[0, 1, 0, 0, 0, 0, 0, 1],
  #v[0, 0, 0, 1, 1, 1, 1, 1],
  #v[0, 0, 0, 0, 0, 0, 0, 1],
  #v[0, 0, 0, 0, 1, 0, 0, 1],
  #v[0, 1, 1, 0, 0, 0, 0, 1],
  #v[1, 1, 1, 1, 0, 1, 0, 1]]

/-- The defaults of R6. -/
def defaultConfig : Config where
  segtab := defaultSegtab
  digActive := 1#1
  dwellTicks := 1
  textMax := 8
  ioMayFail := true

/-- The packed integer of a pattern, element `i` as bit `i` (R9): a notation only. -/
def packed (p : Pattern) : Nat :=
  (List.finRange 8).foldr (fun i n => n + p[i].toNat * 2 ^ i.val) 0

/-- The lit mask of a pattern: bit `s` set exactly when `p[s] = 0`, for the 7 segments
(`spec/30_encoding.md` R64). -/
def litMask (p : Pattern) : Nat :=
  (List.finRange 7).foldr (fun (i : Fin 7) n => n + (~~~p[i.val]).toNat * 2 ^ i.val) 0

end Sys2Proof.Machine
end

