-- ==== Sys2Proof/Machine/State.lean ====
section
/-! DEFINITION. The state of the block (`spec/10_state.md` R20 to R31), the environment's side of its
interface, and the ways a step can stop. -/

namespace Sys2Proof.Machine

/-- The sequencer's phases (R23): the kind of the next step. -/
inductive Phase where
  | idle | seg | dp | on | dwell | off
  /-- Terminal until reset (R157). -/
  | fault
  deriving DecidableEq, Repr

/-- The status register `ERR` (R26). -/
inductive Err where
  | none | malformedDisplayString | hardwareIOFailure
  deriving DecidableEq, Repr

/-- The events of `TRACE` (R30). -/
inductive Event where
  /-- `W(n, v)`: a successful write of level `v` to line `n`. -/
  | w (n : Fin 12) (v : Level)
  /-- `WF(n, v)`: a failed write. -/
  | wf (n : Fin 12) (v : Level)
  /-- `Tick`: one DWELL step. -/
  | tick
  deriving DecidableEq, Repr

/-- One slot of the frame under construction inside a decode: the glyph, its pattern, its point flag. -/
structure Slot where
  glyph : Glyph
  pat : Pattern
  point : Bool
  deriving DecidableEq, Repr

/-- The decode's working variables (R28, `spec/41_frame_decode.md` R106), as the character rows of the
opcode table act on them (log 11). -/
structure Scan where
  /-- The slots opened so far, leftmost first. -/
  slots : List Slot
  /-- `res` of SCAN: the point results found so far (R106). -/
  res : List Bool
  /-- `cnt` of SCAN: glyph characters seen since the last result (R106). -/
  cnt : Nat
  /-- The last character was a glyph character. -/
  afterGlyph : Bool
  /-- Every point marker so far directly followed a glyph character (R104). -/
  placed : Bool
  deriving DecidableEq, Repr

/-- The start of a decode: `res <- []`, `cnt <- 0` (R106). -/
def Scan.start : Scan where
  slots := []
  res := []
  cnt := 0
  afterGlyph := false
  placed := true

/-- What the caller presents (log 6): one character cell of a string under decode, or an operation with
its operand (R66). -/
inductive Call where
  | char (c : Char8)
  | op (n : BitVec 2) (operand : List Char8)
  deriving DecidableEq, Repr

/-- What a named operation returned to the caller (log 12). RENDER returns nothing (R132). -/
inductive Ret where
  | nothing
  /-- The result of ENCODE (R80). -/
  | pattern (p : Pattern)
  /-- ENCODE outside its domain (R81). -/
  | encodeError
  /-- The result of DECODE_FRAME: `Ok(digits, points)` (R100). -/
  | frame (f : Frame)
  /-- The result of DECODE_FRAME: MalformedDisplayString (R100). -/
  | malformed
  deriving DecidableEq, Repr

/-- The whole state. The first group is the machine's parameters, the second the state R20 lists, the
third the decode's working variables, the last the environment's side of the interface. -/
structure State where
  /-- The parameters of this instance (R6, R27): nothing writes them (log 1). -/
  cfg : Config
  /-- `TEXT`: the cells of the request latch (R21). -/
  text : List Char8
  /-- `TLEN` (R21). -/
  tlen : Nat
  /-- `CH[0..3]`: the glyph characters of the frame, as cells (R22). -/
  ch : Vector Char8 4
  /-- `PAT[0..3]` (R22). -/
  pat : Vector Pattern 4
  /-- `PT[0..3]` (R22). -/
  pt : Vector Bool 4
  /-- `PHASE` (R23). -/
  phase : Phase
  /-- `D`: the digit index of the current slot (R23). -/
  dIx : Fin 4
  /-- `S`: the segment index of the next segment write (R23). -/
  sIx : Fin 7
  /-- `DW`: DWELL steps still to take in the current slot (R23). -/
  dw : Nat
  /-- The twelve line registers by line number: `SEG[0..6]` are 0 to 6, `DPL` is 7, `DIG[0..3]` are 8 to
  11 (R25, `spec/20_memory.md` R43). -/
  lines : Vector Level 12
  /-- `ERR` (R26). -/
  err : Err
  /-- `TRACE`, oldest event first (R30). -/
  trace : List Event
  /-- The decode's working variables (R28). -/
  scan : Scan
  /-- What the caller has presented and the block has not taken, oldest first. -/
  calls : List Call
  /-- What the last ENCODE or DECODE_FRAME call returned. -/
  ret : Ret
  /-- The environment asks for a reset (`spec/70_reset_and_hazards.md` R170). -/
  resetIn : Bool
  /-- The collaborator's answers to the next line writes, `true` = failed (`spec/60_exceptions.md` R152). -/
  answers : List Bool
  /-- How many line writes have been issued: the counter the free values are applied to. -/
  draws : Nat
  deriving DecidableEq, Repr

/-- The machine right after reset, for given parameters (R31). `SEG[0..6]`, `DPL`, `TEXT`, `TLEN`, `CH`,
`PAT` and `PT` are unspecified there: their zeros are the model's (log 2), and so are the values of the
model's own fields (log 3). -/
def State.resetWith (cfg : Config) : State where
  cfg := cfg
  text := List.replicate cfg.textMax 0#8
  tlen := 0
  ch := Vector.replicate 4 0#8
  pat := Vector.replicate 4 (Vector.replicate 8 0#1)
  pt := Vector.replicate 4 false
  phase := .idle
  dIx := 0
  sIx := 0
  dw := 0
  lines := Vector.replicate 8 0#1 ++ Vector.replicate 4 (~~~cfg.digActive)
  err := .none
  trace := []
  scan := Scan.start
  calls := []
  ret := .nothing
  resetIn := false
  answers := []
  draws := 0

/-- The machine right after reset, with the default parameters of R6. -/
def State.reset : State := State.resetWith defaultConfig

/-- The ways a step stops where the spec gives no step: stuck states. Both are safe. -/
inductive Fault where
  /-- Raised by `step` in phase `FAULT`: "no step is enabled in it" until reset (R157, U12; log 8). Safe. -/
  | stuckInFault
  /-- Raised by the meaning of a step kind or of RENDER in a state that does not enable it: "no step
  exists for it" (R121, R130, U11; log 9). `step` never runs a step kind outside its phase. Safe. -/
  | notEnabled
  deriving DecidableEq, Repr

/-- Why a word has no meaning. All are safe. -/
inductive Refusal where
  /-- Raised by `exec` for an instruction that is not modelled yet. No arm raises it. Safe. -/
  | notModelled (mnemonic : String)
  /-- Raised by `step` for a presented cell whose code is no character row (R68; log 19). Safe. -/
  | illegalCharacter (c : Char8)
  /-- Raised by `step` for operation number 3, which does not exist (R68; log 19). Safe. -/
  | noSuchOperation
  /-- Raised by `step` for an ENCODE call whose operand is not exactly one character (R66; log 19). Safe. -/
  | operandCount
  /-- Raised for a phase code no step kind has, 6 or 7 (R67, R68); no state of the model makes `step`
  fetch one (log 19). Safe. -/
  | noStepForPhase
  deriving DecidableEq, Repr

end Sys2Proof.Machine
end

