-- ==== Sys2Proof/Machine/Flags.lean ====
section
/-! DEFINITION. The status flags and what a viewer sees: the codes of `ERR` and `PHASE`
(`spec/60_exceptions.md` R150, `spec/30_encoding.md` R67), `BUSY` (`spec/10_state.md` R26), the line
registers by name (R25) and `VISIBLE` (`spec/00_scope.md` R11). -/

namespace Sys2Proof.Machine

/-- The code of `ERR` (R150). -/
def Err.code : Err → BitVec 2
  | .none => 0#2
  | .malformedDisplayString => 1#2
  | .hardwareIOFailure => 2#2

/-- The code of `PHASE` (R67); code 6 is unused. -/
def Phase.code : Phase → BitVec 3
  | .idle => 0#3
  | .seg => 1#3
  | .dp => 2#3
  | .on => 3#3
  | .dwell => 4#3
  | .off => 5#3
  | .fault => 7#3

/-- The phase of a code; the reserved code 6 has none (R68). -/
def phaseOf (p : BitVec 3) : Option Phase :=
  [Phase.idle, .seg, .dp, .on, .dwell, .off, .fault].find? fun x => x.code == p

/-- `BUSY = (PHASE` is none of `IDLE`, `FAULT)` (R26). -/
def State.busy (s : State) : Bool := s.phase != .idle && s.phase != .fault

/-- The number of line `SEG[i]` (R43). -/
def segLine (i : Fin 7) : Fin 12 := ⟨i.val, by omega⟩

/-- The number of line `DPL` (R43). -/
def dpLine : Fin 12 := 7

/-- The number of line `DIG[d]` (R43). -/
def digLine (d : Fin 4) : Fin 12 := ⟨8 + d.val, by omega⟩

/-- The line register of line `n` (R25). -/
def State.line (s : State) (n : Fin 12) : Level := s.lines[n]

/-- `SEG[i]`. -/
def State.seg (s : State) (i : Fin 7) : Level := s.line (segLine i)

/-- `DPL`. -/
def State.dpl (s : State) : Level := s.line dpLine

/-- `DIG[d]`. -/
def State.dig (s : State) (d : Fin 4) : Level := s.line (digLine d)

/-- `ACTIVE`: the level `DIG_ACTIVE` (R9). -/
def State.active (s : State) : Level := s.cfg.digActive

/-- `INACTIVE`: the complement of `ACTIVE` (R9). -/
def State.inactive (s : State) : Level := ~~~s.cfg.digActive

/-- What one lit digit shows: which segments are lit, and its point (R11). -/
structure Shown where
  segments : Vector Bool 7
  point : Bool
  deriving DecidableEq, Repr

/-- `VISIBLE(d)`: dark (`none`) when `DIG[d] = INACTIVE`, else the segments and the point that are `LIT`
(R11). -/
def State.visible (s : State) (d : Fin 4) : Option Shown :=
  if s.dig d = s.active then
    some ⟨Vector.ofFn fun i => s.seg i == Level.lit, s.dpl == Level.lit⟩
  else none

end Sys2Proof.Machine
end

