-- ==== Sys2Proof/Decode.lean ====
section
/-! DEFINITION. Decoding of the three formats and the encoder, from the tables of
`spec/30_encoding.md` R60, R66, R67 and the match values of `spec/opcode_table.json`; and the spelling
of a frame as a display string (R62). -/

namespace Sys2Proof

/-- The 13 glyph characters, in the order of the opcode table. -/
def Glyph.all : List Glyph :=
  [.space, .d0, .d1, .d2, .d3, .d4, .d5, .d6, .d7, .d8, .d9, .letterE, .letterR]

/-- The code of each glyph character (R60). -/
def Glyph.code : Glyph → Char8
  | .space => 0x20#8
  | .d0 => 0x30#8
  | .d1 => 0x31#8
  | .d2 => 0x32#8
  | .d3 => 0x33#8
  | .d4 => 0x34#8
  | .d5 => 0x35#8
  | .d6 => 0x36#8
  | .d7 => 0x37#8
  | .d8 => 0x38#8
  | .d9 => 0x39#8
  | .letterE => 0x45#8
  | .letterR => 0x72#8

/-- The code of the point marker `'.'` (R60). -/
def pointCode : Char8 := 0x2E#8

/-- The glyph character a code stands for, if it stands for one; matching is exact (R61). -/
def glyphOf (c : Char8) : Option Glyph :=
  Glyph.all.find? fun g => g.code == c

/-- `c` is a glyph character (R61). -/
def isGlyph (c : Char8) : Bool := (glyphOf c).isSome

/-- The row of the opcode table for a glyph character (R70). -/
def Glyph.instr : Glyph → Instr
  | .space => .space
  | .d0 => .digit0
  | .d1 => .digit1
  | .d2 => .digit2
  | .d3 => .digit3
  | .d4 => .digit4
  | .d5 => .digit5
  | .d6 => .digit6
  | .d7 => .digit7
  | .d8 => .digit8
  | .d9 => .digit9
  | .letterE => .letterE
  | .letterR => .letterR

/-- Why a word is no instruction; each is a form R68 calls illegal or reserved, or a phase in which no
step exists. -/
inductive DecodeError where
  /-- A character code outside the 14 of R60 (R68, first row). -/
  | illegalCharacter (c : Char8)
  /-- An operation number above 2: "do not exist" (R68). -/
  | noSuchOperation
  /-- An ENCODE word whose operand is not exactly one character (R66). -/
  | operandCount
  /-- Phase code 6, reserved (R68). -/
  | reservedPhase
  /-- Phase code 7, `FAULT`: no step is enabled in it (R67). -/
  | noStepInFault
  deriving DecidableEq, Repr

/-- Format `CHAR8`: "a code that matches no `CHAR8` row is illegal" (R70). -/
def decodeChar (c : Char8) : Except DecodeError Instr :=
  if c = pointCode then .ok .point
  else match glyphOf c with
    | some g => .ok g.instr
    | none => .error (.illegalCharacter c)

/-- Format `OP`: the operations of R66. The operand of a variable-length operation is the whole string
the caller passes (R63). -/
def decodeOp (n : BitVec 2) (operand : List Char8) : Except DecodeError Instr :=
  match n.toNat, operand with
  | 0, [c] => .ok (.encode c)
  | 0, _ => .error .operandCount
  | 1, t => .ok (.decodeFrame t)
  | 2, t => .ok (.render t)
  | _, _ => .error .noSuchOperation

/-- Format `PHASE3`: the step kind enabled in each phase (R67). -/
def decodePhase (p : BitVec 3) : Except DecodeError Instr :=
  match p.toNat with
  | 0 => .ok .accept
  | 1 => .ok .segWrite
  | 2 => .ok .dpWrite
  | 3 => .ok .digOn
  | 4 => .ok .dwell
  | 5 => .ok .digOff
  | 6 => .error .reservedPhase
  | _ => .error .noStepInFault

/-- The decoder, total on every word: an instruction, or the named reason why there is none. -/
def decode : Word → Except DecodeError Instr
  | .char8 c => decodeChar c
  | .op n operand => decodeOp n operand
  | .phase3 p => decodePhase p

/-- The word of an instruction, from the match values of the opcode table (R70). -/
def encode : Instr → Word
  | .space => .char8 0x20#8
  | .digit0 => .char8 0x30#8
  | .digit1 => .char8 0x31#8
  | .digit2 => .char8 0x32#8
  | .digit3 => .char8 0x33#8
  | .digit4 => .char8 0x34#8
  | .digit5 => .char8 0x35#8
  | .digit6 => .char8 0x36#8
  | .digit7 => .char8 0x37#8
  | .digit8 => .char8 0x38#8
  | .digit9 => .char8 0x39#8
  | .letterE => .char8 0x45#8
  | .letterR => .char8 0x72#8
  | .point => .char8 0x2E#8
  | .encode c => .op 0#2 [c]
  | .decodeFrame t => .op 1#2 t
  | .render t => .op 2#2 t
  | .accept => .phase3 0#3
  | .segWrite => .phase3 1#3
  | .dpWrite => .phase3 2#3
  | .digOn => .phase3 3#3
  | .dwell => .phase3 4#3
  | .digOff => .phase3 5#3

/-- One slot of a display string: a glyph character, followed by `'.'` where it carries a point (R62). -/
def spellSlot (g : Glyph) (point : Bool) : List Char8 :=
  g.code :: if point then [pointCode] else []

/-- The display string of a frame, leftmost digit first: `text ::= slot slot slot slot` (R62). -/
def spell (f : Frame) : List Char8 :=
  spellSlot f.digits[0] f.points[0] ++ (spellSlot f.digits[1] f.points[1] ++
    (spellSlot f.digits[2] f.points[2] ++ spellSlot f.digits[3] f.points[3]))

/-- The operand of zeros an operation's word is completed with where the opcode table gives the operand
no bits: one cell for ENCODE, 8 cells (the longest well-formed string, R62) for the others (log 14). -/
def zeroOperand (n : BitVec 2) : List Char8 :=
  if n.toNat = 0 then [0#8] else List.replicate 8 0#8

/-- The word that the opcode table's bits stand for. The table's three formats overlap: 0, 1 and 2 are
codes of format `OP` and of format `PHASE3` alike. A width of 2 bits says `OP`, of 3 bits `PHASE3`; in
a whole byte a value below 8 (no character code, R60) is read as `PHASE3` (log 14). -/
def tableWord (nbits w : Nat) : Word :=
  if nbits ≤ 2 then .op (BitVec.ofNat 2 w) (zeroOperand (BitVec.ofNat 2 w))
  else if nbits ≤ 3 ∨ w < 8 then .phase3 (BitVec.ofNat 3 w)
  else .char8 (BitVec.ofNat 8 w)

/-- The instruction the decoder reads from the opcode table's bits. -/
def decodeTableWord (nbits w : Nat) : Option Instr :=
  match decode (tableWord nbits w) with
  | .ok i => some i
  | .error _ => none

end Sys2Proof
end

