-- ==== Sys2Proof/WellFormed.lean ====
section
/-! DEFINITION. Well-formed instructions: the operand of ENCODE is a glyph character
(`spec/40_segment_encoder.md` R80); the operand of DECODE_FRAME and RENDER matches the grammar of a
display string (`spec/30_encoding.md` R62). -/

namespace Sys2Proof

/-- `t` is `n` slots one after another, `slot ::= G | G '.'` (R62). A point marker is no glyph
character, so a `'.'` after a glyph can only belong to that glyph's slot (R63). -/
def isSlots : Nat → List Char8 → Bool
  | 0, t => t.isEmpty
  | _ + 1, [] => false
  | n + 1, [g] => isGlyph g && isSlots n []
  | n + 1, g :: c :: rest =>
    isGlyph g && if c = pointCode then isSlots n rest else isSlots n (c :: rest)

/-- A display string is well formed exactly when it matches `text ::= slot slot slot slot` (R62). -/
def isDisplayString (t : List Char8) : Bool := isSlots 4 t

/-- An instruction is well formed when its operand is of the form the table gives it. -/
def WellFormed : Instr → Bool
  | .encode c => isGlyph c
  | .decodeFrame t => isDisplayString t
  | .render t => isDisplayString t
  | .space | .digit0 | .digit1 | .digit2 | .digit3 | .digit4 | .digit5 | .digit6 | .digit7 | .digit8
  | .digit9 | .letterE | .letterR | .point | .accept | .segWrite | .dpWrite | .digOn | .dwell
  | .digOff => true

end Sys2Proof
end

