-- ==== Sys2Proof/Machine/Operands.lean ====
section
/-! DEFINITION. The operand forms: the decode of a display string into a frame
(`spec/41_frame_decode.md` R100 to R109), the scan mechanism (R106), and ENCODE on any character
(`spec/40_segment_encoder.md` R80, R81). All are pure functions. -/

namespace Sys2Proof.Machine

/-- `STRIP(t)`: `t` with every point marker removed, the order of the rest kept (R101). -/
def strip (t : List Char8) : List Char8 := t.filter (· != pointCode)

/-- `COUNT_OK(t)`: `len(STRIP(t)) = 4` (R102). -/
def countOk (t : List Char8) : Bool := (strip t).length == 4

/-- `ALPHABET_OK(t)`: every character is a glyph character or the point marker (R103). -/
def alphabetOk (t : List Char8) : Bool := t.all fun c => isGlyph c || c == pointCode

/-- Every point marker of `t` directly follows a glyph character, where `afterGlyph` says whether the
character before `t` is one. -/
def placedAfter (afterGlyph : Bool) : List Char8 → Bool
  | [] => true
  | c :: rest =>
    if c = pointCode then afterGlyph && placedAfter false rest else placedAfter (isGlyph c) rest

/-- `PLACEMENT_OK(t)`: every point marker of `t` directly follows a glyph character (R104). -/
def placementOk (t : List Char8) : Bool := placedAfter false t

/-- `POINTS(t)`, one flag per glyph character of `t` in order: "immediately followed by a `.`" (R105). -/
def pointFlags : List Char8 → List Bool
  | [] => []
  | c :: rest =>
    if isGlyph c then (rest.head? == some pointCode) :: pointFlags rest else pointFlags rest

/-- The glyph characters of `t`, in order; on the accepted alphabet these are `STRIP(t)`. -/
def glyphsOf (t : List Char8) : List Glyph := t.filterMap glyphOf

/-- `DECODE_FRAME(t)` (R100); `none` is MalformedDisplayString. The last case cannot arise once the three
checks hold. -/
def decodeFrame (t : List Char8) : Option Frame :=
  if !alphabetOk t then none
  else if !countOk t then none
  else if !placementOk t then none
  else match glyphsOf t, pointFlags t with
    | [g0, g1, g2, g3], [p0, p1, p2, p3] => some ⟨#v[g0, g1, g2, g3], #v[p0, p1, p2, p3]⟩
    | _, _ => none

/-- One value per digit of the frame, index 0 leftmost (R109). -/
def perDigit {α : Type} (g : Glyph → α) (f : Frame) : Vector α 4 :=
  #v[g f.digits[0], g f.digits[1], g f.digits[2], g f.digits[3]]

/-- One iteration of SCAN's loop on `res` and `cnt` (R106). -/
def scanStep (st : List Bool × Nat) (isPoint : Bool) : List Bool × Nat :=
  if isPoint then (st.1 ++ [true], 0)
  else if st.2 + 1 = 2 then (st.1 ++ [false], 1)
  else (st.1, st.2 + 1)

/-- `SCAN(t)` (R106), with the default of the last flag (R108). -/
def scanFlags (t : List Char8) : List Bool :=
  let res := (t.foldl (fun st c => scanStep st (c == pointCode)) ([], 0)).1
  if res.length < 4 then res ++ [false] else res

/-- A glyph character in the scan: it opens a slot that carries no point yet (R101, R106, R109). -/
def scanGlyph (g : Glyph) (p : Pattern) (k : Scan) : Scan where
  slots := k.slots ++ [⟨g, p, false⟩]
  res := (scanStep (k.res, k.cnt) false).1
  cnt := (scanStep (k.res, k.cnt) false).2
  afterGlyph := true
  placed := k.placed

/-- The last slot gets its point. -/
def pointLast : List Slot → List Slot
  | [] => []
  | [x] => [{ x with point := true }]
  | x :: y :: rest => x :: pointLast (y :: rest)

/-- A point marker in the scan: the glyph directly before it carries a point (R105); without a glyph
directly before it the string is malformed (R104). -/
def scanPoint (k : Scan) : Scan where
  slots := if k.afterGlyph then pointLast k.slots else k.slots
  res := (scanStep (k.res, k.cnt) true).1
  cnt := (scanStep (k.res, k.cnt) true).2
  afterGlyph := false
  placed := k.placed && k.afterGlyph

/-- The frame a finished scan has found: 4 slots and every point marker well placed (R102, R104). -/
def scanFrame (k : Scan) : Option Frame :=
  if k.placed then
    match k.slots with
    | [x0, x1, x2, x3] =>
      some ⟨#v[x0.glyph, x1.glyph, x2.glyph, x3.glyph], #v[x0.point, x1.point, x2.point, x3.point]⟩
    | _ => none
  else none

/-- `ENCODE(c)` on any character: a pattern on the 13 glyph characters and an error elsewhere, never a
pattern (R80, R81, U1). -/
def encodeChar (cfg : Config) (c : Char8) : Ret :=
  match glyphOf c with
  | some g => .pattern (encodeGlyph cfg g)
  | none => .encodeError

/-- The result of `decode_frame(t)` as its caller sees it (R100). -/
def decodeFrameRet (t : List Char8) : Ret :=
  match decodeFrame t with
  | some f => .frame f
  | none => .malformed

end Sys2Proof.Machine
end

