-- ==== Sys2Proof/Machine/Ops.lean ====
section
/-! DEFINITION. The named operations the meanings are built from: the line write (`spec/20_memory.md`
R43, `spec/60_exceptions.md` R152), taking an error (R156, R157), the request latch and the frame latch
(`spec/42_strobe_fsm.md` R122), the tick (R126), and reset (`spec/70_reset_and_hazards.md` R170). There
is no return from an error to model (R158). -/

namespace Sys2Proof.Machine

/-- Append an event to `TRACE` (R30). -/
def State.record (s : State) (e : Event) : State := { s with trace := s.trace ++ [e] }

/-- Put level `v` in the register of line `n` (R25). -/
def State.setLine (s : State) (n : Fin 12) (v : Level) : State :=
  { s with lines := s.lines.set n v }

/-- Whether the collaborator reports the next line write as failed: its listed answer, or a free value
when none is listed; never, where `IO_MAY_FAIL` is false (R6, R152, U4; log 4). -/
def State.writeFails (s : State) : Bool :=
  s.cfg.ioMayFail && match s.answers with
    | [] => Config.writeFails s.draws
    | b :: _ => b

/-- The collaborator has answered one line write (log 4). -/
def State.answered (s : State) : State :=
  { s with answers := s.answers.tail, draws := s.draws + 1 }

/-- TAKING AN ERROR, the one operation all errors go through. MalformedDisplayString: `ERR` is set and
the block stays where it is (R156). HardwareIOFailure: `ERR` is set and `PHASE` goes to `FAULT`; `D`,
`S`, `DW` and the frame latch keep their values (R157). -/
def State.raise (s : State) : Err → State
  | .none => s
  | .malformedDisplayString => { s with err := .malformedDisplayString }
  | .hardwareIOFailure => { s with err := .hardwareIOFailure, phase := .fault }

/-- The state after a successful write of `v` to line `n`: the line register holds `v`, `W(n, v)` is
appended (R43). -/
def State.wrote (s : State) (n : Fin 12) (v : Level) : State :=
  ((s.setLine n v).record (.w n v)).answered

/-- The state after a failed write of `v` to line `n`: `WF(n, v)` is appended, the line's level is a free
value (R152, U3; log 5), and HardwareIOFailure is taken (R157). -/
def State.writeFailed (s : State) (n : Fin 12) (v : Level) : State :=
  ((s.setLine n (Config.levelAfterFailure s.draws)).record (.wf n v)).answered.raise .hardwareIOFailure

/-- The outcome of an operation that may raise: it went on to the state `s`, or it raised and left `s`. -/
inductive Flow where
  | ok (s : State)
  | raised (s : State)

/-- Go on with `f` where nothing was raised; after an error nothing more runs (R157, R158). -/
def Flow.andThen : Flow → (State → Flow) → Flow
  | .ok s, f => f s
  | .raised s, _ => .raised s

/-- The state an operation ends in, `f` finishing it where nothing was raised. -/
def Flow.finish : Flow → (State → State) → State
  | .ok s, f => f s
  | .raised s, _ => s

/-- `LineWrite(n, v)` (R43, R152). -/
def lineWrite (n : Fin 12) (v : Level) (s : State) : Flow :=
  if s.writeFails then .raised (s.writeFailed n v) else .ok (s.wrote n v)

/-- `if len(t) <= TEXT_MAX: TEXT[0..len(t)-1] <- t; TLEN <- len(t)` (R122, R21); the cells above keep
what they held (log 16). -/
def State.latchText (s : State) (t : List Char8) : State :=
  if t.length ≤ s.cfg.textMax then { s with text := t ++ s.text.drop t.length, tlen := t.length }
  else s

/-- `CH[i] <- digits[i]; PAT[i] <- ENCODE(digits[i]); PT[i] <- points[i]` (R109, R122). -/
def State.latchFrame (s : State) (f : Frame) : State :=
  { s with
    ch := perDigit Glyph.code f
    pat := perDigit (encodeGlyph s.cfg) f
    pt := f.points }

/-- `ACCEPT(t)` (R122). The decode's working variables hold nothing afterwards (R28). -/
def State.acceptText (s : State) (t : List Char8) : State :=
  let s1 := { s.latchText t with scan := Scan.start }
  match decodeFrame t with
  | none => s1.raise .malformedDisplayString
  | some f => { s1.latchFrame f with err := .none, dIx := 0, sIx := 0, phase := .seg }

/-- The dwell as RENDER sees it: `DWELL_TICKS` ticks (R120, R126). -/
def State.waitDwell (s : State) : State :=
  { s with trace := s.trace ++ List.replicate s.cfg.dwellTicks .tick, dw := 0 }

/-- Reset: the state of `spec/10_state.md` R31 for the same parameters. What the environment still
holds, the calls it has yet to see taken, its answers and the value it was last returned, is not the
block's and stays (R170, R182; log 10). -/
def State.doReset (s : State) : State :=
  { State.resetWith s.cfg with
    calls := s.calls
    ret := s.ret
    answers := s.answers
    draws := s.draws }

end Sys2Proof.Machine
end

