-- ==== Sys2Proof/Machine/Characters.lean ====
section
/-! DEFINITION. The character rows of the opcode table (format `CHAR8`): what one character of a display
string does to the decode (`spec/40_segment_encoder.md` R82 to R94, `spec/41_frame_decode.md` R101, R105,
R106, R109; log 11). No register, line, event or flag of the block changes (R80, R100). -/

namespace Sys2Proof.Machine

/-- A glyph character met by the decode: its pattern `ENCODE(g)` opens the next slot. -/
def glyphMet (g : Glyph) (s : State) : State :=
  { s with scan := scanGlyph g (encodeGlyph s.cfg g) s.scan }

/-- `SPACE`: `ENCODE` of this character (R82) opens the next slot. -/
def execSpace (s : State) : Host.Outcome State Fault Refusal := .next (glyphMet .space s)

/-- `DIGIT_0`: `ENCODE` of this character (R83) opens the next slot. -/
def execDigit0 (s : State) : Host.Outcome State Fault Refusal := .next (glyphMet .d0 s)

/-- `DIGIT_1`: `ENCODE` of this character (R84) opens the next slot. -/
def execDigit1 (s : State) : Host.Outcome State Fault Refusal := .next (glyphMet .d1 s)

/-- `DIGIT_2`: `ENCODE` of this character (R85) opens the next slot. -/
def execDigit2 (s : State) : Host.Outcome State Fault Refusal := .next (glyphMet .d2 s)

/-- `DIGIT_3`: `ENCODE` of this character (R86) opens the next slot. -/
def execDigit3 (s : State) : Host.Outcome State Fault Refusal := .next (glyphMet .d3 s)

/-- `DIGIT_4`: `ENCODE` of this character (R87) opens the next slot. -/
def execDigit4 (s : State) : Host.Outcome State Fault Refusal := .next (glyphMet .d4 s)

/-- `DIGIT_5`: `ENCODE` of this character (R88) opens the next slot. -/
def execDigit5 (s : State) : Host.Outcome State Fault Refusal := .next (glyphMet .d5 s)

/-- `DIGIT_6`: `ENCODE` of this character (R89) opens the next slot. -/
def execDigit6 (s : State) : Host.Outcome State Fault Refusal := .next (glyphMet .d6 s)

/-- `DIGIT_7`: `ENCODE` of this character (R90) opens the next slot. -/
def execDigit7 (s : State) : Host.Outcome State Fault Refusal := .next (glyphMet .d7 s)

/-- `DIGIT_8`: `ENCODE` of this character (R91) opens the next slot. -/
def execDigit8 (s : State) : Host.Outcome State Fault Refusal := .next (glyphMet .d8 s)

/-- `DIGIT_9`: `ENCODE` of this character (R92) opens the next slot. -/
def execDigit9 (s : State) : Host.Outcome State Fault Refusal := .next (glyphMet .d9 s)

/-- `LETTER_E`: `ENCODE` of this character (R93) opens the next slot. -/
def execLetterE (s : State) : Host.Outcome State Fault Refusal := .next (glyphMet .letterE s)

/-- `LETTER_r`: `ENCODE` of this character (R94) opens the next slot. -/
def execLetterR (s : State) : Host.Outcome State Fault Refusal := .next (glyphMet .letterR s)

/-- `POINT`: consumed by the glyph directly before it, which gets its point (R105); with no glyph directly
before it the string is malformed (R104). -/
def execPoint (s : State) : Host.Outcome State Fault Refusal :=
  .next { s with scan := scanPoint s.scan }

end Sys2Proof.Machine
end

