-- ==== Sys2Proof/Machine/Operations.lean ====
section
/-! DEFINITION. The three operations that can be named from outside the block (format `OP`,
`spec/30_encoding.md` R66): ENCODE and DECODE_FRAME, pure functions that return a value to the caller, and
RENDER, one whole multiplex cycle written as the loop of `spec/42_strobe_fsm.md` R120. -/

namespace Sys2Proof.Machine

/-- `ENCODE(c)`: the result goes to the caller; no register, line, event or flag changes (R80, R81). -/
def execEncode (c : Char8) (s : State) : Host.Outcome State Fault Refusal :=
  .next { s with ret := encodeChar s.cfg c }

/-- `DECODE_FRAME(t)`: the result goes to the caller; it "writes no register by itself, writes no line,
appends nothing to `TRACE`" (R100). The decode's working variables hold nothing afterwards (R28). -/
def execDecodeFrame (t : List Char8) (s : State) : Host.Outcome State Fault Refusal :=
  .next { s with ret := decodeFrameRet t, scan := Scan.start }

/-- `for s in …: LineWrite(SEG[s], p[s])`: the inner loop of R120; `S` is its loop variable. -/
def renderSegs (p : Pattern) : List (Fin 7) → State → Flow
  | [], s => .ok s
  | i :: rest, s => (lineWrite (segLine i) p[i.val] { s with sIx := i }).andThen (renderSegs p rest)

/-- The body of R120's outer loop for digit `d` of the frame `f`; `D` is its loop variable. -/
def renderSlot (f : Frame) (d : Fin 4) (s : State) : Flow :=
  (((renderSegs (encodeGlyph s.cfg f.digits[d]) (List.finRange 7) { s with dIx := d }).andThen
    (lineWrite dpLine (Level.ofBool (!f.points[d])))).andThen
    fun s => lineWrite (digLine d) s.active s).andThen
    fun s => lineWrite (digLine d) s.inactive s.waitDwell

/-- `for d in …`: the outer loop of R120. -/
def renderSlots (f : Frame) : List (Fin 4) → State → Flow
  | [], s => .ok s
  | d :: rest, s => (renderSlot f d s).andThen (renderSlots f rest)

/-- `RENDER(t)` from `IDLE`: the text is accepted or refused (R122), then the loop of R120 runs to its end
(R133) or to the first failed write (R157). -/
def renderText (t : List Char8) (s : State) : State :=
  match decodeFrame t with
  | none => s.acceptText t
  | some f =>
    (renderSlots f (List.finRange 4) (s.acceptText t)).finish fun s =>
      { s with phase := .idle, dIx := 0, sIx := 0 }

/-- `RENDER(t)`: one whole multiplex cycle (R120), in one transition; a presented request is executed by
ACCEPT and the step kinds instead (log 13). A request in any other phase than `IDLE` is not
accepted, "no step exists for it" (R130; log 9). -/
def execRender (t : List Char8) (s : State) : Host.Outcome State Fault Refusal :=
  if s.phase = .idle then .next (renderText t s) else .fault .notEnabled

end Sys2Proof.Machine
end

