-- ==== Sys2Proof/Machine/Steps.lean ====
section
/-! DEFINITION. The six step kinds of the sequencer (format `PHASE3`), `spec/42_strobe_fsm.md` R122 to
R127. Each is enabled in one phase (R121); outside it no step exists and the meaning is stuck (log 9). A
step performs at most one line write (`spec/00_scope.md` R7). -/

namespace Sys2Proof.Machine

/-- A step kind runs in its phase only (R121, R67). -/
def inPhase (p : Phase) (s : State) (f : State → State) : Host.Outcome State Fault Refusal :=
  if s.phase = p then .next (f s) else .fault .notEnabled

/-- After a segment write: `if S < 6: S <- S + 1 else: PHASE <- DP` (R123). -/
def afterSeg (s : State) : State :=
  if h : s.sIx.val < 6 then { s with sIx := ⟨s.sIx.val + 1, by omega⟩ } else { s with phase := .dp }

/-- After a deactivation: the next digit, or the end of the render (R127). -/
def afterOff (s : State) : State :=
  if h : s.dIx.val < 3 then { s with dIx := ⟨s.dIx.val + 1, by omega⟩, sIx := 0, phase := .seg }
  else { s with dIx := 0, sIx := 0, phase := .idle }

/-- `ACCEPT`: enabled in `IDLE` when the caller presents `render(t)`, which it takes (R122). -/
def execAccept (s : State) : Host.Outcome State Fault Refusal :=
  match s.phase, s.calls with
  | .idle, .op 2#2 t :: rest => .next ({ s with calls := rest }.acceptText t)
  | _, _ => .fault .notEnabled

/-- `SEG_WRITE`: `LineWrite(SEG[S], PAT[D][S])`, the encoded value, not inverted (R123). -/
def execSegWrite (s : State) : Host.Outcome State Fault Refusal :=
  inPhase .seg s fun s =>
    (lineWrite (segLine s.sIx) (s.pat[s.dIx])[s.sIx.val] s).finish afterSeg

/-- `DP_WRITE`: `LineWrite(DPL, NOT PT[D]); PHASE <- ON` (R124). -/
def execDpWrite (s : State) : Host.Outcome State Fault Refusal :=
  inPhase .dp s fun s =>
    (lineWrite dpLine (Level.ofBool (!s.pt[s.dIx])) s).finish fun s => { s with phase := .on }

/-- `DIG_ON`: `LineWrite(DIG[D], ACTIVE); DW <- DWELL_TICKS; PHASE <- DWELL` (R125). -/
def execDigOn (s : State) : Host.Outcome State Fault Refusal :=
  inPhase .on s fun s =>
    (lineWrite (digLine s.dIx) s.active s).finish fun s =>
      { s with dw := s.cfg.dwellTicks, phase := .dwell }

/-- `DWELL`: a `Tick`; `if DW > 1: DW <- DW - 1 else: DW <- 0; PHASE <- OFF` (R126). -/
def execDwell (s : State) : Host.Outcome State Fault Refusal :=
  inPhase .dwell s fun s =>
    let s1 := s.record .tick
    if s1.dw > 1 then { s1 with dw := s1.dw - 1 } else { s1 with dw := 0, phase := .off }

/-- `DIG_OFF`: `LineWrite(DIG[D], INACTIVE)`, then the next digit or the end of the render (R127). -/
def execDigOff (s : State) : Host.Outcome State Fault Refusal :=
  inPhase .off s fun s => (lineWrite (digLine s.dIx) s.inactive s).finish afterOff

end Sys2Proof.Machine
end

