-- ==== Sys2Proof/Machine/Dispatch.lean ====
section
/-! DEFINITION. One arm per row of the opcode table, each one call of its meaning. -/

namespace Sys2Proof.Machine

/-- The meaning of each instruction. -/
def exec (i : Instr) (s : State) : Host.Outcome State Fault Refusal :=
  match i with
  | .space => Sys2Proof.Machine.execSpace s
  | .digit0 => Sys2Proof.Machine.execDigit0 s
  | .digit1 => Sys2Proof.Machine.execDigit1 s
  | .digit2 => Sys2Proof.Machine.execDigit2 s
  | .digit3 => Sys2Proof.Machine.execDigit3 s
  | .digit4 => Sys2Proof.Machine.execDigit4 s
  | .digit5 => Sys2Proof.Machine.execDigit5 s
  | .digit6 => Sys2Proof.Machine.execDigit6 s
  | .digit7 => Sys2Proof.Machine.execDigit7 s
  | .digit8 => Sys2Proof.Machine.execDigit8 s
  | .digit9 => Sys2Proof.Machine.execDigit9 s
  | .letterE => Sys2Proof.Machine.execLetterE s
  | .letterR => Sys2Proof.Machine.execLetterR s
  | .point => Sys2Proof.Machine.execPoint s
  | .encode c => Sys2Proof.Machine.execEncode c s
  | .decodeFrame t => Sys2Proof.Machine.execDecodeFrame t s
  | .render t => Sys2Proof.Machine.execRender t s
  | .accept => Sys2Proof.Machine.execAccept s
  | .segWrite => Sys2Proof.Machine.execSegWrite s
  | .dpWrite => Sys2Proof.Machine.execDpWrite s
  | .digOn => Sys2Proof.Machine.execDigOn s
  | .dwell => Sys2Proof.Machine.execDwell s
  | .digOff => Sys2Proof.Machine.execDigOff s

end Sys2Proof.Machine
end

