-- ==== Sys2Proof/Machine/Fetch.lean ====
section
/-! DEFINITION. What the block runs next: the sequencer's phase says it during a render
(`spec/30_encoding.md` R67), the caller's presented call in `IDLE` (`spec/42_strobe_fsm.md` R121, R122). -/

namespace Sys2Proof.Machine

/-- The word to run next and the state once it is taken; `none` where no step is enabled: in `IDLE` with
nothing presented, and in `FAULT` (R121). In `IDLE` a presented `render(t)` enables ACCEPT, which takes
the request itself; any other presented call is taken here (log 6, log 12). -/
def fetch (s : State) : Option (Word × State) :=
  match s.phase with
  | .fault => none
  | .idle =>
    match s.calls with
    | [] => none
    | .char c :: rest => some (.char8 c, { s with calls := rest })
    | .op n t :: rest =>
      if n = 2#2 then some (.phase3 Phase.idle.code, s) else some (.op n t, { s with calls := rest })
  | p => some (.phase3 p.code, s)

/-- The outcome where no step is enabled: in `FAULT` the machine is stuck until reset (R157; log 8); in
`IDLE` with nothing presented the block waits and nothing changes (`spec/60_exceptions.md` R165; log 7). -/
def noStep (s : State) : Host.Outcome State Fault Refusal :=
  if s.phase = .fault then .fault .stuckInFault else .next s

/-- The refusal of a word that is no instruction, by name (R68; log 19). -/
def refusalOf : DecodeError → Refusal
  | .illegalCharacter c => .illegalCharacter c
  | .noSuchOperation => .noSuchOperation
  | .operandCount => .operandCount
  | .reservedPhase => .noStepForPhase
  | .noStepInFault => .noStepForPhase

/-- `s` with the word placed where the next step fetches (log 15): a character or an operation is
presented in `IDLE`; a phase code is put into `PHASE`, and for `IDLE` a request is presented, since ACCEPT
is enabled by one. A code that is no phase changes nothing. -/
def placeWord (s : State) : Word → State
  | .char8 c => { s with phase := .idle, calls := .char c :: s.calls, resetIn := false }
  | .op n t => { s with phase := .idle, calls := .op n t :: s.calls, resetIn := false }
  | .phase3 p =>
    match phaseOf p with
    | none => s
    | some .idle =>
      { s with phase := .idle, calls := .op 2#2 (zeroOperand 2#2) :: s.calls, resetIn := false }
    | some x => { s with phase := x, resetIn := false }

end Sys2Proof.Machine
end

