-- ==== Sys2Proof/Machine/Step.lean ====
section
/-! DEFINITION. One step of the machine (`spec/00_scope.md` R7, `spec/42_strobe_fsm.md` R121), and the
placing of an instruction where the next step fetches it. -/

namespace Sys2Proof.Machine

/-- One step: a reset where the environment asks for one (`spec/70_reset_and_hazards.md` R170, R183),
else the instruction fetched, else nothing to run. -/
def step (s : State) : Host.Outcome State Fault Refusal :=
  if s.resetIn then .next s.doReset
  else match fetch s with
    | none => noStep s
    | some (w, s') =>
      match decode w with
      | .ok i => exec i s'
      | .error e => .refused (refusalOf e)

/-- `s` with the instruction whose opcode-table bits are `w` placed where `step` fetches next (log 15). -/
def State.withFetchWord (s : State) (nbits w : Nat) : State :=
  placeWord s (tableWord nbits w)

end Sys2Proof.Machine
end

