-- ==== Sys2Proof/Safety.lean ====
section
/-! DEFINITION. What counts as a safe state and a good run, in the terms the statements use: the
invariants of `spec/10_state.md` R32 and what carries them, the environment's moves and the reachable
states (`spec/70_reset_and_hazards.md` R183), the writes of one render (`spec/42_strobe_fsm.md` R128),
and what one instruction leaves as it was. -/

namespace Sys2Proof.Machine

/-- The phases of a slot after its 7 segment writes. -/
abbrev Phase.afterSegs (p : Phase) : Prop := p = .dp ∨ p = .on ∨ p = .dwell ∨ p = .off

/-- The phases of a slot after its point write. -/
abbrev Phase.afterPoint (p : Phase) : Prop := p = .on ∨ p = .dwell ∨ p = .off

/-- The frame latch holds the decode of the latched text: `CH` its glyphs, `PAT` their patterns, `PT`
its flags (R21, R22, `spec/20_memory.md` R53). -/
def FrameOfText (s : State) : Prop :=
  ∃ f, decodeFrame (s.text.take s.tlen) = some f ∧ s.ch = perDigit Glyph.code f ∧
    s.pat = perDigit (encodeGlyph s.cfg) f ∧ s.pt = f.points

/-- `k` steps of the machine, stopping at the first fault or refusal: `Host.Core.run` at the model's own
types. -/
def run (k : Nat) (s : State) : Host.Outcome State Fault Refusal := Host.Core.run Sys2Proof.core k s

/-- The invariant of the block: R32, the ranges of R21 and R23, and the facts about the sequencer that
carry them from step to step. -/
structure Invariant (s : State) : Prop where
  /-- The parameters are within R6's bounds. -/
  params : s.cfg.Admissible
  /-- `TEXT` has `TEXT_MAX` cells and `TLEN` is in `0..TEXT_MAX` (R21). -/
  latch : s.text.length = s.cfg.textMax ∧ s.tlen ≤ s.cfg.textMax
  /-- In `DWELL`, `DW` counts from `DWELL_TICKS` down to 1 (R126, R137). -/
  dwCounts : s.phase = .dwell → 1 ≤ s.dw ∧ s.dw ≤ s.cfg.dwellTicks
  /-- Outside `DWELL`, `DW` is 0. -/
  dwRests : s.phase ≠ .dwell → s.dw = 0
  /-- In `IDLE`, `D` and `S` are 0 (R31, R133). -/
  idleIndex : s.phase = .idle → s.dIx = 0 ∧ s.sIx = 0
  /-- After the segment writes of a slot, `S` stays 6 (R123). -/
  slotIndex : s.phase.afterSegs → s.sIx = 6
  /-- R32.1: no digit line but that of the current digit is `ACTIVE`; in `FAULT` too. -/
  oneActive : ∀ d, s.dig d = s.active → d = s.dIx
  /-- R32.2: a digit line is `ACTIVE` only in `DWELL` and in `OFF`; nothing is said of `FAULT`. -/
  blank : s.phase ≠ .fault → ∀ d, s.dig d = s.active → s.phase = .dwell ∨ s.phase = .off
  /-- In `DWELL` and in `OFF` the current digit's line is `ACTIVE`. -/
  lit : s.phase = .dwell ∨ s.phase = .off → s.dig s.dIx = s.active
  /-- In `SEG`, the segment lines below `S` hold the current pattern. -/
  segsSoFar : s.phase = .seg → ∀ i, i < s.sIx → s.seg i = (s.pat[s.dIx])[i.val]
  /-- R32.4, segments: after the segment writes all 7 lines hold the current pattern. -/
  segs : s.phase.afterSegs → ∀ i : Fin 7, s.seg i = (s.pat[s.dIx])[i.val]
  /-- R32.4, point: after the point write `DPL = NOT PT[D]`. -/
  point : s.phase.afterPoint → s.dpl = Level.ofBool (!s.pt[s.dIx])
  /-- During a render the frame latch is the decode of the latched text. -/
  frame : s.busy = true → FrameOfText s
  /-- `ERR` is HardwareIOFailure exactly in `FAULT` (R26, R157). -/
  errFault : s.phase = .fault ↔ s.err = .hardwareIOFailure
  /-- During a render `ERR` is `None` (R122, R127). -/
  errBusy : s.busy = true → s.err = .none

/-- A state right after reset: exactly what R31 fixes, for any parameters, whatever the registers hold
that R31 leaves unspecified and whatever the environment holds. -/
structure IsReset (s : State) : Prop where
  params : s.cfg.Admissible
  latch : s.text.length = s.cfg.textMax ∧ s.tlen ≤ s.cfg.textMax
  phase : s.phase = .idle
  counters : s.dIx = 0 ∧ s.sIx = 0 ∧ s.dw = 0
  err : s.err = .none
  dark : ∀ d, s.dig d = s.inactive
  trace : s.trace = []

/-- The environment's moves between steps (R183). For the rows of kind "never" there is none: nothing is
presented during a render or in `FAULT`, and no text, line or parameter is changed. Nor is a single
character presented: the characters of a string are decoded within one step (`spec/10_state.md` R28). -/
inductive EnvMove (s : State) : State → Prop
  /-- "present `render(t)` while `PHASE = IDLE`", as a caller whose last call has been taken: "the call
  blocks" (R176, R183). A call of ENCODE or DECODE_FRAME, which R66 lets be named from outside, keeps to
  the same duty (log 6, log 12). -/
  | present (n : BitVec 2) (t : List Char8) (i : Instr) (op : decode (.op n t) = .ok i)
      (idle : s.phase = .idle) (free : s.calls = []) : EnvMove s { s with calls := [.op n t] }
  /-- "let a line write succeed or fail" (R152). -/
  | answer (bs : List Bool) : EnvMove s { s with answers := bs }
  /-- "reset | liberty, at any time" (R170). -/
  | askReset : EnvMove s { s with resetIn := true }

/-- Where a run begins (R183): right after reset, with nothing presented yet and no decode under way
(`spec/10_state.md` R28). -/
structure RunStart (s : State) : Prop where
  reset : IsReset s
  calls : s.calls = []
  scan : s.scan = Scan.start

/-- The states a run meets: from any state in which one begins, by steps and by the environment's moves. -/
inductive Reachable : State → Prop
  | reset {s : State} (h : RunStart s) : Reachable s
  | step {s t : State} (h : Reachable s) (hs : step s = .next t) : Reachable t
  | env {s t : State} (h : Reachable s) (he : EnvMove s t) : Reachable t

/-- The text of the request that the next step takes, where it takes one (R122). -/
def State.taken (s : State) : List (List Char8) :=
  match s.phase, s.calls with
  | .idle, .op 2#2 x :: _ => [x]
  | _, _ => []

/-- The states a run meets, with the texts of all requests taken since the last reset, oldest first:
"a reset followed by a finite sequence of requests" (R183). -/
inductive RunOf : List (List Char8) → State → Prop
  | reset {s : State} (h : RunStart s) : RunOf [] s
  | step {xs : List (List Char8)} {s t : State} (h : RunOf xs s) (hr : s.resetIn = false)
      (hs : step s = .next t) : RunOf (xs ++ s.taken) t
  | restart {xs : List (List Char8)} {s t : State} (h : RunOf xs s) (hr : s.resetIn = true)
      (hs : step s = .next t) : RunOf [] t
  | env {xs : List (List Char8)} {s t : State} (h : RunOf xs s) (he : EnvMove s t) : RunOf xs t

/-- A run has ended well: every request has been presented and taken, and `PHASE = IDLE` (R183). -/
def EndedWell (s : State) : Prop := s.calls = [] ∧ s.phase = .idle

/-- The next `k` line writes do not fail: the named premise of R152 and U4. -/
def NoWriteFails (k : Nat) (s : State) : Prop :=
  s.cfg.ioMayFail = false ∨ k ≤ s.answers.length ∧ ∀ b ∈ s.answers.take k, b = false

/-- The events of slot `d` of a render of `f` in which no write fails (R128). -/
def slotTrace (cfg : Config) (f : Frame) (d : Fin 4) : List Event :=
  (List.finRange 7).map (fun i => .w (segLine i) (encodeGlyph cfg f.digits[d])[i.val]) ++
    [.w dpLine (Level.ofBool (!f.points[d])), .w (digLine d) cfg.digActive] ++
    List.replicate cfg.dwellTicks .tick ++ [.w (digLine d) (~~~cfg.digActive)]

/-- The events of a whole render of `f` in which no write fails, digits 0 to 3 in order (R128). -/
def renderTrace (cfg : Config) (f : Frame) : List Event :=
  (List.finRange 4).flatMap (slotTrace cfg f)

/-- The events of the complete renders of the well-formed ones among some texts, one after another. -/
def rendersOf (cfg : Config) (xs : List (List Char8)) : List Event :=
  (xs.filterMap decodeFrame).flatMap (renderTrace cfg)

/-- What `ERR` reports in `IDLE` after requests with these texts: the verdict on the most recent one
(`spec/10_state.md` R26), `None` before the first (R31). -/
def verdict (xs : List (List Char8)) : Err :=
  if xs.getLast?.map decodeFrame = some none then .malformedDisplayString else .none

/-- The steps of a whole render, the ACCEPT with them: `1 + 4 × (7 + 1 + 1 + DWELL_TICKS + 1)` (R128). -/
def renderSteps (cfg : Config) : Nat := 1 + 4 * (7 + 1 + 1 + cfg.dwellTicks + 1)

/-- The code of a decimal digit. -/
def digitCell (k : Fin 10) : Char8 := BitVec.ofNat 8 (0x30 + k.val)

/-- The glyph of a decimal digit. -/
def digitGlyph (k : Fin 10) : Glyph :=
  #v[Glyph.d0, .d1, .d2, .d3, .d4, .d5, .d6, .d7, .d8, .d9][k]

/-- The strings the source's callers pass to `render` (`spec/42_strobe_fsm.md` R135), each with the frame
its shape shows: four decimal digits with no point (`"HHMM"`), with the point after the second (`"HH.MM"`,
`"SS.CC"`), with a second point at the end (`"MM.SS."`), and `"Err.0"`. The exact form of the date text is
not known (`spec/91_not_in_source.md` N9): only its four-digit form is among these. -/
inductive CallerText : List Char8 → Frame → Prop
  | plain (a b c d : Fin 10) : CallerText [digitCell a, digitCell b, digitCell c, digitCell d]
      ⟨#v[digitGlyph a, digitGlyph b, digitGlyph c, digitGlyph d], #v[false, false, false, false]⟩
  | point (a b c d : Fin 10) :
      CallerText [digitCell a, digitCell b, pointCode, digitCell c, digitCell d]
        ⟨#v[digitGlyph a, digitGlyph b, digitGlyph c, digitGlyph d], #v[false, true, false, false]⟩
  | points (a b c d : Fin 10) :
      CallerText [digitCell a, digitCell b, pointCode, digitCell c, digitCell d, pointCode]
        ⟨#v[digitGlyph a, digitGlyph b, digitGlyph c, digitGlyph d], #v[false, true, false, true]⟩
  | overflow : CallerText [0x45#8, 0x72#8, 0x72#8, 0x2E#8, 0x30#8]
      ⟨#v[.letterE, .letterR, .letterR, .d0], #v[false, false, true, false]⟩

/-- The parameters and the request latch are as before. -/
def SameText (s t : State) : Prop := t.cfg = s.cfg ∧ t.text = s.text ∧ t.tlen = s.tlen

/-- The frame latch is as before. -/
def SameFrame (s t : State) : Prop := t.ch = s.ch ∧ t.pat = s.pat ∧ t.pt = s.pt

/-- The sequencer's counters are as before. -/
def SameCounters (s t : State) : Prop := t.dIx = s.dIx ∧ t.sIx = s.sIx ∧ t.dw = s.dw

/-- Every line register is as before. -/
def SameLines (s t : State) : Prop := ∀ n, t.line n = s.line n

/-- Every line register but that of line `n` is as before. -/
def SameOtherLines (n : Fin 12) (s t : State) : Prop := ∀ m, m ≠ n → t.line m = s.line m

/-- What the caller has presented and was last returned is as before, no reset is asked for that was
not, and the decode's working variables are as before. -/
def SameCaller (s t : State) : Prop :=
  t.calls = s.calls ∧ t.ret = s.ret ∧ t.resetIn = s.resetIn ∧ t.scan = s.scan

/-- The collaborator was not called: no answer is used up and no free value drawn. -/
def SameAnswers (s t : State) : Prop := t.answers = s.answers ∧ t.draws = s.draws

/-- One line write was issued: one answer is used up, where one is listed, and one count drawn. -/
def OneAnswer (s t : State) : Prop := t.answers = s.answers.tail ∧ t.draws = s.draws + 1

/-- The phase in which a step kind is enabled (R67). -/
def stepPhase : Instr → Option Phase
  | .accept => some .idle
  | .segWrite => some .seg
  | .dpWrite => some .dp
  | .digOn => some .on
  | .dwell => some .dwell
  | .digOff => some .off
  | .space | .digit0 | .digit1 | .digit2 | .digit3 | .digit4 | .digit5 | .digit6 | .digit7 | .digit8
  | .digit9 | .letterE | .letterR | .point | .encode _ | .decodeFrame _ | .render _ => none

/-- The line write a step kind issues: the line and the level (R123 to R125, R127). -/
def stepWrite (i : Instr) (s : State) : Option (Fin 12 × Level) :=
  match i with
  | .segWrite => some (segLine s.sIx, (s.pat[s.dIx])[s.sIx.val])
  | .dpWrite => some (dpLine, Level.ofBool (!s.pt[s.dIx]))
  | .digOn => some (digLine s.dIx, s.active)
  | .digOff => some (digLine s.dIx, s.inactive)
  | .accept | .dwell | .space | .digit0 | .digit1 | .digit2 | .digit3 | .digit4 | .digit5 | .digit6
  | .digit7 | .digit8 | .digit9 | .letterE | .letterR | .point | .encode _ | .decodeFrame _
  | .render _ => none

/-- An outcome with its next state seen through `f`: to compare two runs up to one field. -/
def mapNext (f : State → State) : Host.Outcome State Fault Refusal → Host.Outcome State Fault Refusal
  | .next s => .next (f s)
  | .fault r => .fault r
  | .refused r => .refused r

/-- Several instructions one after another. -/
def execAll : List Instr → State → Host.Outcome State Fault Refusal
  | [], s => .next s
  | i :: rest, s =>
    match exec i s with
    | .next t => execAll rest t
    | .fault r => .fault r
    | .refused r => .refused r

/-- What ACCEPT's latch does to `TEXT` and `TLEN` when the text presented is `x`: a text of at most
`TEXT_MAX` characters fills the first cells and the others stay (log 16, DEDUCED); a longer one changes
nothing (R21). -/
def TextLatched (x : List Char8) (s t : State) : Prop :=
  if x.length ≤ s.cfg.textMax then
    t.tlen = x.length ∧ t.text.take x.length = x ∧ t.text.drop x.length = s.text.drop x.length
  else t.tlen = s.tlen ∧ t.text = s.text

/-- What digit `d` shows while its line is active: the segments whose pattern level is 0, and its point
(R134). -/
def shownDigit (s : State) (d : Fin 4) : Shown where
  segments := Vector.ofFn fun i : Fin 7 => (s.pat[d])[i.val] == Level.lit
  point := s.pt[d]

/-- The state at the end of a render of the frame `f` in which no write failed, compared with the state
`s` in which it was accepted (R133, R128). -/
structure RenderDone (f : Frame) (s t : State) : Prop where
  trace : t.trace = s.trace ++ renderTrace s.cfg f
  phase : t.phase = .idle
  counters : t.dIx = 0 ∧ t.sIx = 0 ∧ t.dw = 0
  err : t.err = .none
  dark : ∀ d, t.dig d = t.inactive
  segs : ∀ i : Fin 7, t.seg i = (t.pat[3])[i.val]
  point : t.dpl = Level.ofBool (!t.pt[3])
  glyphs : t.ch = perDigit Glyph.code f
  patterns : t.pat = perDigit (encodeGlyph s.cfg) f
  points : t.pt = f.points
  params : t.cfg = s.cfg
  writes : t.answers = s.answers.drop 40 ∧ t.draws = s.draws + 40

end Sys2Proof.Machine
end

