-- ==== Sys2Proof/Certificates/Slice0/Obligations.lean ====
section
/-! DEFINITION. The statements for the provers, from the numbered rules of `spec/`. Each is listed in
OBLIGATIONS.json. A statement about a free value holds for every value of it; none rests on a value that
the model names for reset (log 2, log 3). -/

open Sys2Proof Sys2Proof.Machine

/-! ## Steps, fetch and decoding -/

/-- R121, R67: a step runs the instruction that the sequencer's phase, or in `IDLE` the caller's oldest
call, decodes to. In `IDLE` a presented `render(t)` enables ACCEPT (R122); the other calls are the model's
port for naming the other rows from outside (log 11, log 12), and are taken when they run. -/
def Obligations.StepRunsTheDecodedInstruction : Prop :=
  (∀ s i, s.resetIn = false → s.busy = true → decode (.phase3 s.phase.code) = .ok i →
    step s = exec i s) ∧
  (∀ s t rest, s.resetIn = false → s.phase = .idle → s.calls = .op 2#2 t :: rest →
    step s = exec .accept s) ∧
  (∀ s n t rest i, s.resetIn = false → s.phase = .idle → s.calls = .op n t :: rest → n ≠ 2#2 →
    decode (.op n t) = .ok i → step s = exec i { s with calls := rest }) ∧
  (∀ s c rest i, s.resetIn = false → s.phase = .idle → s.calls = .char c :: rest →
    decode (.char8 c) = .ok i → step s = exec i { s with calls := rest })

/-- R121, R157, R165, R68: where nothing is enabled: in `IDLE` with nothing presented the block waits and
nothing changes (the model's reading, log 7); in `FAULT` it is stuck; a presented word that is no
instruction (a code with no row, operation number 3, an ENCODE call whose operand is not exactly one
character) is refused by name (log 19). -/
def Obligations.StepWithNothingToRun : Prop :=
  (∀ s, s.resetIn = false → s.phase = .idle → s.calls = [] → step s = .next s) ∧
  (∀ s, s.resetIn = false → s.phase = .fault → step s = .fault .stuckInFault) ∧
  (∀ s c rest, s.resetIn = false → s.phase = .idle → s.calls = .char c :: rest → isGlyph c = false →
    c ≠ pointCode → step s = .refused (.illegalCharacter c)) ∧
  (∀ s t rest, s.resetIn = false → s.phase = .idle → s.calls = .op 3#2 t :: rest →
    step s = .refused .noSuchOperation) ∧
  (∀ s t rest, s.resetIn = false → s.phase = .idle → s.calls = .op 0#2 t :: rest → t.length ≠ 1 →
    step s = .refused .operandCount)

/-- R60, R66, R67: words written out from the encoding tables, one or more of each format. -/
def Obligations.TableWordsDecode : Prop :=
  decode (.char8 0b00100000#8) = .ok .space ∧ decode (.char8 0b00110101#8) = .ok .digit5 ∧
  decode (.char8 0b01000101#8) = .ok .letterE ∧ decode (.char8 0b01110010#8) = .ok .letterR ∧
  decode (.char8 0b00101110#8) = .ok .point ∧
  (∀ c, decode (.op 0b00#2 [c]) = .ok (.encode c)) ∧
  (∀ t, decode (.op 0b01#2 t) = .ok (.decodeFrame t)) ∧
  (∀ t, decode (.op 0b10#2 t) = .ok (.render t)) ∧
  decode (.phase3 0b000#3) = .ok .accept ∧ decode (.phase3 0b001#3) = .ok .segWrite ∧
  decode (.phase3 0b010#3) = .ok .dpWrite ∧ decode (.phase3 0b011#3) = .ok .digOn ∧
  decode (.phase3 0b100#3) = .ok .dwell ∧ decode (.phase3 0b101#3) = .ok .digOff

/-- R68, R70: every word that matches no row of its format decodes to nothing: the codes are those of R60
(general knowledge of the spec, log 17); an ENCODE word takes exactly one character (R66), and that one
with another operand is an error of its own name is the model's choice (log 19). -/
def Obligations.OtherWordsAreRefused : Prop :=
  (∀ c : Char8, (∃ i, decode (.char8 c) = .ok i) ↔ c.toNat ∈ [0x20, 0x2E, 0x30, 0x31, 0x32, 0x33,
    0x34, 0x35, 0x36, 0x37, 0x38, 0x39, 0x45, 0x72]) ∧
  (∀ t, decode (.op 3#2 t) = .error .noSuchOperation) ∧
  (∀ t, t.length ≠ 1 → decode (.op 0#2 t) = .error .operandCount) ∧
  decode (.phase3 6#3) = .error .reservedPhase ∧ decode (.phase3 7#3) = .error .noStepInFault

/-! ## Reset -/

/-- R31: the state right after reset has every value R31 gives, for any parameters. Nothing is said of
the registers R31 leaves unspecified (log 2). -/
def Obligations.ResetLeavesTheSpecifiedValues : Prop :=
  State.reset = State.resetWith defaultConfig ∧
  ∀ cfg, (State.resetWith cfg).phase = .idle ∧ (State.resetWith cfg).dIx = 0 ∧
    (State.resetWith cfg).sIx = 0 ∧ (State.resetWith cfg).dw = 0 ∧ (State.resetWith cfg).err = .none ∧
    (∀ d, (State.resetWith cfg).dig d = (State.resetWith cfg).inactive) ∧
    (State.resetWith cfg).trace = [] ∧ (State.resetWith cfg).busy = false ∧
    (State.resetWith cfg).cfg = cfg

/-- R170: a reset leads from every state to the values R31 gives, and is the only way out of `FAULT`. -/
def Obligations.ResetFromEveryState : Prop :=
  (∀ s, s.resetIn = true → ∃ t, step s = .next t ∧ t.cfg = s.cfg ∧ t.phase = .idle ∧ t.dIx = 0 ∧
    t.sIx = 0 ∧ t.dw = 0 ∧ t.err = .none ∧ (∀ d, t.dig d = t.inactive) ∧ t.trace = [] ∧
    t.resetIn = false) ∧
  (∀ s t, s.phase = .fault → step s = .next t → s.resetIn = true)

/-! ## The character rows -/

/-- The 13 glyph rows (`SPACE`, `DIGIT_0` to `DIGIT_9`, `LETTER_E`, `LETTER_r`), for every table: the
character's pattern opens the next slot, SCAN's variables move as R106 says, and nothing else of the state
changes. That a row acts on the decode's working variables is the model's choice (log 11). -/
def Obligations.GlyphRowsOpenASlot : Prop :=
  ∀ p ∈ [(Instr.space, Glyph.space), (.digit0, .d0), (.digit1, .d1), (.digit2, .d2), (.digit3, .d3),
      (.digit4, .d4), (.digit5, .d5), (.digit6, .d6), (.digit7, .d7), (.digit8, .d8), (.digit9, .d9),
      (.letterE, .letterE), (.letterR, .letterR)],
    ∀ s : State, ∃ t, exec p.1 s = .next t ∧
      t.scan.slots = s.scan.slots ++ [⟨p.2, encodeGlyph s.cfg p.2, false⟩] ∧
      t.scan.afterGlyph = true ∧ t.scan.placed = s.scan.placed ∧
      (s.scan.cnt = 1 → t.scan.res = s.scan.res ++ [false] ∧ t.scan.cnt = 1) ∧
      (s.scan.cnt ≠ 1 → t.scan.res = s.scan.res ∧ t.scan.cnt = s.scan.cnt + 1) ∧
      { t with scan := s.scan } = s

/-- The `POINT` row: the glyph directly before it gets its point (R105); with none directly before it the
string is malformed (R104); SCAN's variables move as R106 says; nothing else changes (log 11). -/
def Obligations.PointRowMarksTheGlyphBefore : Prop :=
  ∀ s : State, ∃ t, exec .point s = .next t ∧
    (s.scan.afterGlyph = true → ∀ xs x, s.scan.slots = xs ++ [x] →
      t.scan.slots = xs ++ [{ x with point := true }] ∧ t.scan.placed = s.scan.placed) ∧
    (s.scan.afterGlyph = false → t.scan.slots = s.scan.slots ∧ t.scan.placed = false) ∧
    t.scan.afterGlyph = false ∧ t.scan.res = s.scan.res ++ [true] ∧ t.scan.cnt = 0 ∧
    { t with scan := s.scan } = s

/-- The character rows together are the decode: running the rows of a string from the start of a decode
finds the frame DECODE_FRAME finds, with its patterns and SCAN's results, or refuses what it refuses, for
every string of characters that have a row. -/
def Obligations.CharacterRowsAreTheDecode : Prop :=
  ∀ (x : List Char8) (is : List Instr) (s : State), x.mapM decodeChar = .ok is →
    s.scan = Scan.start →
    ∃ t, execAll is s = .next t ∧ { t with scan := s.scan } = s ∧
      scanFrame t.scan = decodeFrame x ∧
      t.scan.slots.map Slot.pat = (glyphsOf x).map (encodeGlyph s.cfg) ∧
      (if t.scan.res.length < 4 then t.scan.res ++ [false] else t.scan.res) = scanFlags x

/-! ## ENCODE -/

/-- R80, R81: `encode(c)` returns the table's pattern for each of the 13 glyph characters and an error,
never a pattern, for every other character; nothing else changes. The error value is the model's choice
among what R81 allows, and the result stands in the model's port field (log 12). -/
def Obligations.EncodeReturnsTheTablesPattern : Prop :=
  ∀ (c : Char8) (s : State), ∃ t, exec (.encode c) s = .next t ∧
    (∀ g : Glyph, c = g.code → t.ret = .pattern (encodeGlyph s.cfg g)) ∧
    ((∀ g : Glyph, c ≠ g.code) → t.ret = .encodeError) ∧ { t with ret := s.ret } = s

/-- R82 to R94, R96: the default table, level by level, as packed integer and as lit mask; its patterns
are pairwise different and only space is all dark. The values are the spec's general knowledge (log 17). -/
def Obligations.DefaultTableValues : Prop :=
  (∀ p ∈ [(Glyph.space, [1, 1, 1, 1, 1, 1, 1, 1], 0xFF, 0x00), (.d0, [0, 0, 0, 0, 0, 0, 1, 1], 0xC0, 0x3F),
      (.d1, [1, 0, 0, 1, 1, 1, 1, 1], 0xF9, 0x06), (.d2, [0, 0, 1, 0, 0, 1, 0, 1], 0xA4, 0x5B),
      (.d3, [0, 0, 0, 0, 1, 1, 0, 1], 0xB0, 0x4F), (.d4, [1, 0, 0, 1, 1, 0, 0, 1], 0x99, 0x66),
      (.d5, [0, 1, 0, 0, 1, 0, 0, 1], 0x92, 0x6D), (.d6, [0, 1, 0, 0, 0, 0, 0, 1], 0x82, 0x7D),
      (.d7, [0, 0, 0, 1, 1, 1, 1, 1], 0xF8, 0x07), (.d8, [0, 0, 0, 0, 0, 0, 0, 1], 0x80, 0x7F),
      (.d9, [0, 0, 0, 0, 1, 0, 0, 1], 0x90, 0x6F), (.letterE, [0, 1, 1, 0, 0, 0, 0, 1], 0x86, 0x79),
      (.letterR, [1, 1, 1, 1, 0, 1, 0, 1], 0xAF, 0x50)],
    (encodeGlyph defaultConfig p.1).toList = p.2.1 ∧ packed (encodeGlyph defaultConfig p.1) = p.2.2.1 ∧
      litMask (encodeGlyph defaultConfig p.1) = p.2.2.2) ∧
  (∀ g h, encodeGlyph defaultConfig g = encodeGlyph defaultConfig h → g = h) ∧
  (∀ g, litMask (encodeGlyph defaultConfig g) = 0 → g = .space)

/-! ## DECODE_FRAME -/

/-- R100: `decode_frame(t)` returns `Ok(STRIP(t), POINTS(t))` where the three checks hold and
MalformedDisplayString where one fails. It writes no register of the block, no line and no event; its own
working variables hold nothing afterwards (R28), which as fields of the state, like the port the result
stands in, are the model's (log 11, log 12). -/
def Obligations.DecodeFrameReturnsDigitsAndPoints : Prop :=
  ∀ (x : List Char8) (s : State), ∃ t, exec (.decodeFrame x) s = .next t ∧
    (alphabetOk x = true → countOk x = true → placementOk x = true →
      ∃ f : Frame, t.ret = .frame f ∧ f.digits.toList.map Glyph.code = strip x ∧
        f.points.toList = pointFlags x) ∧
    (alphabetOk x = false ∨ countOk x = false ∨ placementOk x = false → t.ret = .malformed) ∧
    t.scan = Scan.start ∧ { t with ret := s.ret, scan := s.scan } = s

/-- R105: point flag `i` is set exactly when a point marker stands directly after the `i`-th glyph
character of the string. -/
def Obligations.PointFlagIsTheMarkerAfterTheGlyph : Prop :=
  ∀ (x : List Char8) (f : Frame), decodeFrame x = some f → ∀ i : Fin 4,
    ∃ k, ((List.range x.length).filter fun j => isGlyph (x.getD j 0#8))[i.val]? = some k ∧
      (f.points[i] = true ↔ x[k + 1]? = some pointCode)

/-- R107 with R106 and R108: on every well-formed string SCAN gives the same four flags as POINTS. -/
def Obligations.ScanAgreesWithPoints : Prop :=
  ∀ (x : List Char8) (f : Frame), decodeFrame x = some f →
    scanFlags x = f.points.toList ∧ (scanFlags x).length = 4

/-- R62, R104: the strings that pass the three checks are exactly those of the grammar, they are exactly
the strings DECODE_FRAME accepts, and they have 4 to 8 characters. -/
def Obligations.ChecksAreTheGrammar : Prop :=
  ∀ x : List Char8,
    (isDisplayString x = true ↔ alphabetOk x = true ∧ countOk x = true ∧ placementOk x = true) ∧
    (isDisplayString x = true ↔ ∃ f, decodeFrame x = some f) ∧
    (isDisplayString x = true → 4 ≤ x.length ∧ x.length ≤ 8)

/-- R62, R100, R111: decoding and spelling a display string agree, for all 13^4 glyph choices and all 16
placements of points: the decode of a frame's spelling is the frame, and a string that decodes to a frame
is the frame's spelling. -/
def Obligations.DecodeAndSpellAgree : Prop :=
  (∀ f, decodeFrame (spell f) = some f) ∧ (∀ x f, decodeFrame x = some f → spell f = x)

/-- R135, R69: each string the source's callers pass decodes to the frame its own shape shows: its four
digits, with no point, the point after the second, that and one after the last, or for `"Err.0"` the point
after the third. The date text, whose exact form the source does not give, is among them only in its
four-digit form. The character codes are the spec's general knowledge (log 17). -/
def Obligations.CallerTextsAreWellFormed : Prop :=
  ∀ x f, CallerText x f → decodeFrame x = some f

/-! ## ACCEPT -/

/-- R122: ACCEPT takes the request, latches its text, and either loads the frame latch and starts the
strobe, or reports MalformedDisplayString and leaves everything else. It runs only in `IDLE` with a
request presented (in any other state the model's fault, log 9). MalformedDisplayString is raised by it and
by nothing else (RENDER begins with it). The model's inferences and choices in it: the cells of `TEXT` above
`TLEN` keep what they held (`TextLatched`; log 16, DEDUCED), the decode's working variables, fields of the
model, are cleared (log 11), and the request is taken from the caller's calls (log 6). -/
def Obligations.AcceptLatchesOrRefuses : Prop :=
  (∀ s x rest f, s.phase = .idle → s.calls = .op 2#2 x :: rest → decodeFrame x = some f →
    ∃ t, exec .accept s = .next t ∧ TextLatched x s t ∧
      (∀ i : Fin 4, t.ch[i] = (f.digits[i]).code ∧ t.pat[i] = encodeGlyph s.cfg f.digits[i] ∧
        t.pt[i] = f.points[i]) ∧
      t.err = .none ∧ t.dIx = 0 ∧ t.sIx = 0 ∧ t.phase = .seg ∧ t.dw = s.dw ∧ SameLines s t ∧
      t.trace = s.trace ∧ SameAnswers s t ∧ t.calls = rest ∧ t.cfg = s.cfg ∧ t.ret = s.ret ∧
      t.resetIn = s.resetIn ∧ t.scan = Scan.start) ∧
  (∀ s x rest, s.phase = .idle → s.calls = .op 2#2 x :: rest → decodeFrame x = none →
    ∃ t, exec .accept s = .next t ∧ TextLatched x s t ∧ t.err = .malformedDisplayString ∧
      t.phase = .idle ∧ SameCounters s t ∧ SameFrame s t ∧ SameLines s t ∧ t.trace = s.trace ∧
      SameAnswers s t ∧ t.calls = rest ∧ t.cfg = s.cfg ∧ t.ret = s.ret ∧ t.resetIn = s.resetIn ∧
      t.scan = Scan.start) ∧
  (∀ s, s.phase ≠ .idle → exec .accept s = .fault .notEnabled) ∧
  (∀ s, (∀ x rest, s.calls ≠ .op 2#2 x :: rest) → exec .accept s = .fault .notEnabled) ∧
  (∀ i s t, exec i s = .next t → s.err ≠ .malformedDisplayString → t.err = .malformedDisplayString →
    i = .accept ∨ ∃ x, i = .render x)

/-- R156, R110: a malformed request is refused in the step that meets it, before any hardware is touched,
the display stays dark (from a state that meets the invariant), and the next request is accepted normally,
a well-formed one setting `ERR` back to `None`: whichever is presented after the refusal, or waited behind
the malformed one. That requests are taken from the front of a list is the model's form of them (log 6). -/
def Obligations.MalformedRequestIsRefusedAndForgotten : Prop :=
  ∀ s x rest, s.resetIn = false → s.phase = .idle → s.calls = .op 2#2 x :: rest →
    decodeFrame x = none →
    ∃ t, step s = .next t ∧ t.err = .malformedDisplayString ∧ t.phase = .idle ∧ SameLines s t ∧
      t.trace = s.trace ∧ SameFrame s t ∧ SameCounters s t ∧ t.calls = rest ∧
      (Invariant s → ∀ d, t.visible d = none) ∧
      ∀ y more f, decodeFrame y = some f →
        ∃ u, step { t with calls := .op 2#2 y :: more } = .next u ∧ u.err = .none ∧ u.phase = .seg ∧
          u.calls = more

/-! ## The strobe steps -/

/-- R123: SEG_WRITE writes the encoded value, not inverted, to the segment line of index `S` and advances
`S` or goes on to the point; a failed write is taken as R157 says; outside `SEG` it is not enabled. Every
other line and every other register stays. -/
def Obligations.SegWriteWritesTheEncodedValue : Prop :=
  (∀ s, s.phase = .seg → s.writeFails = false →
    ∃ t, exec .segWrite s = .next t ∧
      t.line (segLine s.sIx) = (s.pat[s.dIx])[s.sIx.val] ∧ SameOtherLines (segLine s.sIx) s t ∧
      t.trace = s.trace ++ [.w (segLine s.sIx) (s.pat[s.dIx])[s.sIx.val]] ∧
      (s.sIx.val < 6 → t.sIx.val = s.sIx.val + 1 ∧ t.phase = .seg) ∧
      (s.sIx.val = 6 → t.sIx = s.sIx ∧ t.phase = .dp) ∧
      t.dIx = s.dIx ∧ t.dw = s.dw ∧ t.err = s.err ∧ SameText s t ∧ SameFrame s t ∧ SameCaller s t ∧
      OneAnswer s t) ∧
  (∀ s, s.phase = .seg → s.writeFails = true →
    ∃ t, exec .segWrite s = .next t ∧ t.phase = .fault ∧ t.err = .hardwareIOFailure ∧
      t.trace = s.trace ++ [.wf (segLine s.sIx) (s.pat[s.dIx])[s.sIx.val]]) ∧
  (∀ s, s.phase ≠ .seg → exec .segWrite s = .fault .notEnabled)

/-- R124: DP_WRITE writes the inverted point flag to the point line: `LIT` (0) where the digit has a
point, `DARK` (1) where it has none. Element 7 of the pattern plays no part. -/
def Obligations.DpWriteWritesTheInvertedFlag : Prop :=
  (∀ s, s.phase = .dp → s.writeFails = false →
    ∃ t, exec .dpWrite s = .next t ∧ t.line dpLine = (if s.pt[s.dIx] then 0#1 else 1#1) ∧
      SameOtherLines dpLine s t ∧
      t.trace = s.trace ++ [.w dpLine (if s.pt[s.dIx] then 0#1 else 1#1)] ∧ t.phase = .on ∧
      SameCounters s t ∧ t.err = s.err ∧ SameText s t ∧ SameFrame s t ∧ SameCaller s t ∧
      OneAnswer s t) ∧
  (∀ s, s.phase = .dp → s.writeFails = true →
    ∃ t, exec .dpWrite s = .next t ∧ t.phase = .fault ∧ t.err = .hardwareIOFailure ∧
      t.trace = s.trace ++ [.wf dpLine (if s.pt[s.dIx] then 0#1 else 1#1)]) ∧
  (∀ s, s.phase ≠ .dp → exec .dpWrite s = .fault .notEnabled)

/-- R125: DIG_ON activates the line of digit `D`, loads `DW` and goes to the dwell; from the end of this
step until the DIG_OFF step of the slot the digit shows its pattern and its point (from a state that meets
the invariant, with no reset asked for). A failed write does not load `DW`. -/
def Obligations.DigOnActivatesTheDigit : Prop :=
  (∀ s, s.phase = .on → s.writeFails = false →
    ∃ t, exec .digOn s = .next t ∧ t.line (digLine s.dIx) = s.cfg.digActive ∧
      SameOtherLines (digLine s.dIx) s t ∧ t.trace = s.trace ++ [.w (digLine s.dIx) s.cfg.digActive] ∧
      t.dw = s.cfg.dwellTicks ∧ t.phase = .dwell ∧ t.dIx = s.dIx ∧ t.sIx = s.sIx ∧ t.err = s.err ∧
      SameText s t ∧ SameFrame s t ∧ SameCaller s t ∧ OneAnswer s t ∧
      (Invariant s → s.resetIn = false → ∀ j, j ≤ s.cfg.dwellTicks →
        ∃ u, run j t = .next u ∧ u.visible s.dIx = some (shownDigit s s.dIx))) ∧
  (∀ s, s.phase = .on → s.writeFails = true →
    ∃ t, exec .digOn s = .next t ∧ t.phase = .fault ∧ t.err = .hardwareIOFailure ∧ t.dw = s.dw ∧
      t.trace = s.trace ++ [.wf (digLine s.dIx) s.cfg.digActive]) ∧
  (∀ s, s.phase ≠ .on → exec .digOn s = .fault .notEnabled)

/-- R126: a DWELL step appends one `Tick` and counts `DW` down to the end of the dwell; no line changes
and the collaborator is not called; outside `DWELL` it is not enabled. A dwell takes exactly `DW` steps,
`DWELL_TICKS` of them from DIG_ON (R125, R161), and nothing but `TRACE` and the counting changes on the way. -/
def Obligations.DwellTicksAndCounts : Prop :=
  (∀ s, s.phase = .dwell →
    ∃ t, exec .dwell s = .next t ∧ t.trace = s.trace ++ [.tick] ∧
      (s.dw > 1 → t.dw = s.dw - 1 ∧ t.phase = .dwell) ∧ (s.dw ≤ 1 → t.dw = 0 ∧ t.phase = .off) ∧
      SameLines s t ∧ t.dIx = s.dIx ∧ t.sIx = s.sIx ∧ t.err = s.err ∧ SameText s t ∧ SameFrame s t ∧
      SameCaller s t ∧ SameAnswers s t) ∧
  (∀ s, s.phase ≠ .dwell → exec .dwell s = .fault .notEnabled) ∧
  (∀ s k, s.phase = .dwell → s.resetIn = false → s.dw = k + 1 →
    (∀ j, j ≤ k → run j s =
      .next { s with trace := s.trace ++ List.replicate j .tick, dw := s.dw - j }) ∧
    run (k + 1) s =
      .next { s with trace := s.trace ++ List.replicate (k + 1) .tick, dw := 0, phase := .off })

/-- R127: DIG_OFF deactivates the line of digit `D` and goes to the next digit, or after digit 3 to the
end of the render. -/
def Obligations.DigOffDeactivatesTheDigit : Prop :=
  (∀ s, s.phase = .off → s.writeFails = false →
    ∃ t, exec .digOff s = .next t ∧ t.line (digLine s.dIx) = ~~~s.cfg.digActive ∧
      SameOtherLines (digLine s.dIx) s t ∧
      t.trace = s.trace ++ [.w (digLine s.dIx) (~~~s.cfg.digActive)] ∧
      (s.dIx.val < 3 → t.dIx.val = s.dIx.val + 1 ∧ t.phase = .seg) ∧
      (s.dIx.val = 3 → t.dIx = 0 ∧ t.phase = .idle) ∧
      t.sIx = 0 ∧ t.dw = s.dw ∧ t.err = s.err ∧ SameText s t ∧ SameFrame s t ∧ SameCaller s t ∧
      OneAnswer s t) ∧
  (∀ s, s.phase = .off → s.writeFails = true →
    ∃ t, exec .digOff s = .next t ∧ t.phase = .fault ∧ t.err = .hardwareIOFailure ∧
      t.trace = s.trace ++ [.wf (digLine s.dIx) (~~~s.cfg.digActive)]) ∧
  (∀ s, s.phase ≠ .off → exec .digOff s = .fault .notEnabled)

/-- R157: whichever of SEG_WRITE, DP_WRITE, DIG_ON and DIG_OFF meets a failed write, the same error is
taken: `WF(n, v)` instead of `W(n, v)`, `ERR`, `PHASE`; the counters, the frame latch and every other
line keep their values. `FAULT` is terminal: no step is enabled in it and no request accepted. -/
def Obligations.FailedWriteIsFatal : Prop :=
  (∀ i s n v, stepPhase i = some s.phase → stepWrite i s = some (n, v) → s.writeFails = true →
    ∃ t, exec i s = .next t ∧ t.trace = s.trace ++ [.wf n v] ∧ t.err = .hardwareIOFailure ∧
      t.phase = .fault ∧ SameCounters s t ∧ SameFrame s t ∧ SameText s t ∧ SameOtherLines n s t ∧
      SameCaller s t ∧ OneAnswer s t) ∧
  (∀ s, s.phase = .fault → s.resetIn = false → step s = .fault .stuckInFault) ∧
  (∀ s x, s.phase = .fault → exec (.render x) s = .fault .notEnabled ∧
    exec .accept s = .fault .notEnabled)

/-- R152: the collaborator's next answer decides a write; where `IO_MAY_FAIL` is false none fails, so no
instruction leads into `FAULT`. -/
def Obligations.AnswersDecideTheWrites : Prop :=
  (∀ (s : State) b bs, s.answers = b :: bs → s.cfg.ioMayFail = true → s.writeFails = b) ∧
  (∀ i s t, s.cfg.ioMayFail = false → exec i s = .next t → t.phase = .fault → s.phase = .fault)

/-! ## RENDER -/

/-- R120, R128, R133: RENDER of a well-formed text in `IDLE`, where no write fails, performs exactly the
40 writes and the ticks of the loop and ends in the state of R133. -/
def Obligations.RenderPerformsTheLoop : Prop :=
  ∀ s x f, s.cfg.Admissible → s.phase = .idle → decodeFrame x = some f → NoWriteFails 40 s →
    ∃ t, exec (.render x) s = .next t ∧ RenderDone f s t ∧ TextLatched x s t ∧ t.calls = s.calls ∧
      t.ret = s.ret ∧ t.resetIn = s.resetIn ∧ t.scan = Scan.start

/-- R120, R130: RENDER of a malformed text makes no write; RENDER in any other phase than `IDLE` is not
accepted. -/
def Obligations.RenderRefusals : Prop :=
  (∀ s x, s.phase = .idle → decodeFrame x = none →
    ∃ t, exec (.render x) s = .next t ∧ t.err = .malformedDisplayString ∧ t.phase = .idle ∧
      SameLines s t ∧ t.trace = s.trace ∧ SameFrame s t ∧ SameCounters s t ∧ SameAnswers s t ∧
      TextLatched x s t ∧ t.cfg = s.cfg ∧ t.calls = s.calls ∧ t.ret = s.ret ∧
      t.resetIn = s.resetIn ∧ t.scan = Scan.start) ∧
  (∀ s x, s.phase ≠ .idle → exec (.render x) s = .fault .notEnabled)

/-- R128, R133: run step by step from the ACCEPT, a render in which no write fails takes exactly
`1 + 4 × (7 + 1 + 1 + DWELL_TICKS + 1)` steps, appends exactly the events of R128 and ends as R133 says. -/
def Obligations.RenderStepByStep : Prop :=
  ∀ s x rest f, s.cfg.Admissible → s.resetIn = false → s.phase = .idle → s.calls = .op 2#2 x :: rest →
    decodeFrame x = some f → NoWriteFails 40 s →
    ∃ t, run (renderSteps s.cfg) s = .next t ∧ RenderDone f s t ∧
      TextLatched x s t ∧ t.calls = rest

/-- R120: the step rules are RENDER's loop cut into steps: from any state in `IDLE` with `render(t)`
presented, and whatever the collaborator answers, the steps lead to exactly the state RENDER leads to, at
its end, at its refusal, or at its first failed write. -/
def Obligations.StepsImplementRender : Prop :=
  ∀ s x rest, s.cfg.Admissible → s.resetIn = false → s.phase = .idle → s.calls = .op 2#2 x :: rest →
    ∃ k t, k ≤ renderSteps s.cfg ∧ run k s = .next t ∧
      exec (.render x) { s with calls := rest } = .next t

/-- R129: a render cannot hang: from any state of a render, with no reset asked for, `IDLE` or `FAULT` is
reached within the steps of one render. -/
def Obligations.RenderEndsInBoundedSteps : Prop :=
  ∀ s, Invariant s → s.busy = true → s.resetIn = false →
    ∃ k t, k ≤ renderSteps s.cfg ∧ run k s = .next t ∧
      (t.phase = .idle ∨ t.phase = .fault)

/-! ## The whole machine -/

/-- R32 and what carries it: every step from a state that meets the invariant leads to one that does. -/
def Obligations.StepKeepsTheInvariant : Prop :=
  ∀ s t, Invariant s → step s = .next t → Invariant t

/-- R31, R32: every state right after reset meets the invariant, whatever the unspecified registers hold;
and the model's reset states are such states. -/
def Obligations.ResetMeetsTheInvariant : Prop :=
  (∀ s, IsReset s → Invariant s) ∧ (∀ cfg, cfg.Admissible → IsReset (State.resetWith cfg))

/-- R32: every state a run meets satisfies the invariant, whatever the environment presents, answers or
resets on the way. -/
def Obligations.ReachableStatesMeetTheInvariant : Prop :=
  ∀ s, Reachable s → Invariant s

/-- R32.3, R174: whenever a step writes a segment line or the point line, all four digit lines are
`INACTIVE` before and after. -/
def Obligations.SegmentLinesChangeUnderBlanking : Prop :=
  ∀ s t n v, Invariant s → s.resetIn = false → step s = .next t →
    (t.trace = s.trace ++ [.w n v] ∨ t.trace = s.trace ++ [.wf n v]) → n.val < 8 →
    ∀ d, s.dig d = s.inactive ∧ t.dig d = s.inactive

/-- R134, R33, R32: in `DWELL` and in `OFF` exactly the current digit is lit, showing its pattern and its
point; in every other phase but `FAULT` the display is dark. -/
def Obligations.OnlyTheCurrentDigitIsVisible : Prop :=
  ∀ s, Invariant s →
    (s.phase = .dwell ∨ s.phase = .off →
      s.visible s.dIx = some (shownDigit s s.dIx) ∧ ∀ d, d ≠ s.dIx → s.visible d = none) ∧
    (s.phase ≠ .dwell → s.phase ≠ .off → s.phase ≠ .fault → ∀ d, s.visible d = none)

/-- R7, R25, R30, R47: a step writes at most one line; it records what it did in `TRACE`, which only
grows; a line register changes only by the write to its own line. -/
def Obligations.OneLineWritePerStep : Prop :=
  ∀ s t, s.resetIn = false → step s = .next t →
    (t.trace = s.trace ∧ SameLines s t) ∨ (t.trace = s.trace ++ [.tick] ∧ SameLines s t) ∨
    (∃ n v, t.trace = s.trace ++ [.w n v] ∧ t.line n = v ∧ SameOtherLines n s t) ∨
    (∃ n v, t.trace = s.trace ++ [.wf n v] ∧ t.phase = .fault ∧ SameOtherLines n s t)

/-- R26: `ERR` is written only by ACCEPT (in RENDER too), which sets it to `None` or to
MalformedDisplayString, and by a failed line write; once HardwareIOFailure it stays until reset; `BUSY` is
derived; and no instruction reads `ERR`: two states that differ in it alone run alike. -/
def Obligations.ErrReportsAndDecidesNothing : Prop :=
  (∀ i s t, exec i s = .next t → t.err ≠ s.err →
    (t.err = .hardwareIOFailure ∧ t.phase = .fault) ∨ i = .accept ∨ ∃ x, i = .render x) ∧
  (∀ s t, Invariant s → s.err = .hardwareIOFailure → s.resetIn = false → step s ≠ .next t) ∧
  (∀ s : State, s.busy = true ↔ s.phase ≠ .idle ∧ s.phase ≠ .fault) ∧
  (∀ i s e, mapNext (fun t => { t with err := .none }) (exec i { s with err := e }) =
    mapNext (fun t => { t with err := .none }) (exec i s))

/-- R53, R129, R130: during a render nothing the caller presents has any effect: a step with any other
pending calls does the same and leaves those calls as they are. -/
def Obligations.PendingCallsDoNotReachARender : Prop :=
  ∀ s cs, s.busy = true → s.resetIn = false →
    step { s with calls := cs } = mapNext (fun t => { t with calls := cs }) (step s) ∧
    ∀ t, step s = .next t → t.calls = s.calls

/-- R21, R22, R53, R27: the request latch and the frame latch change only by ACCEPT (in RENDER too) or by a
reset: no other instruction, and no step without a reset in a state where no request is presented in
`IDLE`, changes either. An ACCEPT of a malformed text leaves the frame latch, one of a text longer than
`TEXT_MAX` the request latch. The parameters change never. -/
def Obligations.LatchesChangeOnlyAtAccept : Prop :=
  (∀ s t, step s = .next t → t.cfg = s.cfg) ∧
  (∀ i s t, i ≠ .accept → (∀ x, i ≠ .render x) → exec i s = .next t → SameText s t ∧ SameFrame s t) ∧
  (∀ s t, s.resetIn = false → (∀ x rest, ¬(s.phase = .idle ∧ s.calls = .op 2#2 x :: rest)) →
    step s = .next t → SameText s t ∧ SameFrame s t) ∧
  (∀ s t x rest, s.resetIn = false → s.phase = .idle → s.calls = .op 2#2 x :: rest → step s = .next t →
    (decodeFrame x = none → SameFrame s t) ∧ (s.cfg.textMax < x.length → SameText s t))

/-- R95, R64: element 7 of a pattern is never read by the renderer: with any other elements 7 in the frame
latch every strobe step does the same. -/
def Obligations.PatternElementSevenIsNeverRead : Prop :=
  ∀ (i : Instr) (s : State) (p : Vector Pattern 4), i ∈ [Instr.segWrite, .dpWrite, .digOn, .dwell, .digOff] →
    (∀ (d : Fin 4) (e : Fin 7), (p[d])[e.val] = (s.pat[d])[e.val]) →
    exec i { s with pat := p } = mapNext (fun t => { t with pat := p }) (exec i s)

/-- R183, R33: a run that has ended well leaves the display dark and is stable: with nothing more
presented, a step changes nothing (the stutter is the model's reading, log 7). -/
def Obligations.GoodEndIsDarkAndStable : Prop :=
  ∀ s, Reachable s → EndedWell s → s.resetIn = false →
    (∀ d, s.dig d = s.inactive ∧ s.visible d = none) ∧ step s = .next s

/-- R176, R183: in a run a caller has at most one call outstanding, and none during a render or in `FAULT`:
"present a request while a render runs" is nothing the environment does. That calls of ENCODE and
DECODE_FRAME keep to a request's duty is the model's choice (log 6). -/
def Obligations.NothingIsPresentedDuringARender : Prop :=
  ∀ s, Reachable s → s.calls.length ≤ 1 ∧ (s.phase ≠ .idle → s.calls = [])

/-- R183, R128: whenever a run is in `IDLE`, `TRACE` is a concatenation of whole renders in which no write
failed, and nothing else. Which requests they are of says `EveryRequestIsAccountedFor`. -/
def Obligations.TraceInIdleIsWholeRenders : Prop :=
  ∀ s, Reachable s → s.phase = .idle → ∃ fs : List Frame, s.trace = fs.flatMap (renderTrace s.cfg)

/-- R6: the defaults of the parameters, which the model's reset state has, are within the bounds R6 puts on
them. `DIG_ACTIVE = 1` is the spec's own default and not its source's (log 17). -/
def Obligations.DefaultParameters : Prop :=
  State.reset.cfg = defaultConfig ∧ defaultConfig.digActive = 1#1 ∧ defaultConfig.dwellTicks = 1 ∧
    defaultConfig.textMax = 8 ∧ defaultConfig.ioMayFail = true ∧ defaultConfig.Admissible

/-- R28: the decode's working variables hold nothing between steps: in every state a run meets they are as
at the start of a decode, and every step from such a state, unless it runs a single character through the
model's port for the character rows (log 11), leaves them so. -/
def Obligations.WorkingVariablesHoldNothingBetweenSteps : Prop :=
  (∀ s, Reachable s → s.scan = Scan.start) ∧
  (∀ s t, s.scan = Scan.start → (∀ c rest, ¬(s.phase = .idle ∧ s.calls = .char c :: rest)) →
    step s = .next t → t.scan = Scan.start)

/-- R121, R157, R129: a run never stops but in `FAULT`: in every state it meets, a step answers a next
state, or the block is stuck in `FAULT` with no reset asked for; no step of a run is refused. -/
def Obligations.RunsStopOnlyInFault : Prop :=
  ∀ s, Reachable s → (∃ t, step s = .next t) ∨
    (s.phase = .fault ∧ s.resetIn = false ∧ step s = .fault .stuckInFault)

/-- R183, R128, R157, R26: what became of every request taken since the last reset. In `IDLE`, each was
either rendered completely, in the order they were taken, or refused with no write, and `ERR` is the verdict
on the last. In a render the last one is well formed and `TRACE` goes on with the events of its render so
far; in `FAULT` it stops there, with the failed write in place of the render's next one. -/
def Obligations.EveryRequestIsAccountedFor : Prop :=
  (∀ s, Reachable s ↔ ∃ xs, RunOf xs s) ∧
  ∀ xs s, RunOf xs s →
    (s.phase = .idle → s.trace = rendersOf s.cfg xs ∧ s.err = verdict xs) ∧
    (s.busy = true → ∃ xs' x f p, xs = xs' ++ [x] ∧ decodeFrame x = some f ∧
      p <+: renderTrace s.cfg f ∧ s.trace = rendersOf s.cfg xs' ++ p) ∧
    (s.phase = .fault → ∃ xs' x f p n v, xs = xs' ++ [x] ∧ decodeFrame x = some f ∧
      p ++ [.w n v] <+: renderTrace s.cfg f ∧ s.trace = rendersOf s.cfg xs' ++ p ++ [.wf n v])
end

