-- ==== Sys2Proof/Laws/State.lean ====
section
/-! SUPPORT. One lemma per field per named update of the state, all true by unfolding the update once, so
that no later proof unfolds a record update. -/

namespace Sys2Proof.Machine

variable (s : State)

section record
variable (e : Event)

@[simp] theorem State.record_cfg : (s.record e).cfg = s.cfg := rfl
@[simp] theorem State.record_text : (s.record e).text = s.text := rfl
@[simp] theorem State.record_tlen : (s.record e).tlen = s.tlen := rfl
@[simp] theorem State.record_ch : (s.record e).ch = s.ch := rfl
@[simp] theorem State.record_pat : (s.record e).pat = s.pat := rfl
@[simp] theorem State.record_pt : (s.record e).pt = s.pt := rfl
@[simp] theorem State.record_phase : (s.record e).phase = s.phase := rfl
@[simp] theorem State.record_dIx : (s.record e).dIx = s.dIx := rfl
@[simp] theorem State.record_sIx : (s.record e).sIx = s.sIx := rfl
@[simp] theorem State.record_dw : (s.record e).dw = s.dw := rfl
@[simp] theorem State.record_lines : (s.record e).lines = s.lines := rfl
@[simp] theorem State.record_err : (s.record e).err = s.err := rfl
@[simp] theorem State.record_trace : (s.record e).trace = s.trace ++ [e] := rfl
@[simp] theorem State.record_scan : (s.record e).scan = s.scan := rfl
@[simp] theorem State.record_calls : (s.record e).calls = s.calls := rfl
@[simp] theorem State.record_ret : (s.record e).ret = s.ret := rfl
@[simp] theorem State.record_resetIn : (s.record e).resetIn = s.resetIn := rfl
@[simp] theorem State.record_answers : (s.record e).answers = s.answers := rfl
@[simp] theorem State.record_draws : (s.record e).draws = s.draws := rfl

end record

section setLine
variable (n : Fin 12) (v : Level)

@[simp] theorem State.setLine_cfg : (s.setLine n v).cfg = s.cfg := rfl
@[simp] theorem State.setLine_text : (s.setLine n v).text = s.text := rfl
@[simp] theorem State.setLine_tlen : (s.setLine n v).tlen = s.tlen := rfl
@[simp] theorem State.setLine_ch : (s.setLine n v).ch = s.ch := rfl
@[simp] theorem State.setLine_pat : (s.setLine n v).pat = s.pat := rfl
@[simp] theorem State.setLine_pt : (s.setLine n v).pt = s.pt := rfl
@[simp] theorem State.setLine_phase : (s.setLine n v).phase = s.phase := rfl
@[simp] theorem State.setLine_dIx : (s.setLine n v).dIx = s.dIx := rfl
@[simp] theorem State.setLine_sIx : (s.setLine n v).sIx = s.sIx := rfl
@[simp] theorem State.setLine_dw : (s.setLine n v).dw = s.dw := rfl
@[simp] theorem State.setLine_lines : (s.setLine n v).lines = s.lines.set n v := rfl
@[simp] theorem State.setLine_err : (s.setLine n v).err = s.err := rfl
@[simp] theorem State.setLine_trace : (s.setLine n v).trace = s.trace := rfl
@[simp] theorem State.setLine_scan : (s.setLine n v).scan = s.scan := rfl
@[simp] theorem State.setLine_calls : (s.setLine n v).calls = s.calls := rfl
@[simp] theorem State.setLine_ret : (s.setLine n v).ret = s.ret := rfl
@[simp] theorem State.setLine_resetIn : (s.setLine n v).resetIn = s.resetIn := rfl
@[simp] theorem State.setLine_answers : (s.setLine n v).answers = s.answers := rfl
@[simp] theorem State.setLine_draws : (s.setLine n v).draws = s.draws := rfl

end setLine

section answered

@[simp] theorem State.answered_cfg : (s.answered).cfg = s.cfg := rfl
@[simp] theorem State.answered_text : (s.answered).text = s.text := rfl
@[simp] theorem State.answered_tlen : (s.answered).tlen = s.tlen := rfl
@[simp] theorem State.answered_ch : (s.answered).ch = s.ch := rfl
@[simp] theorem State.answered_pat : (s.answered).pat = s.pat := rfl
@[simp] theorem State.answered_pt : (s.answered).pt = s.pt := rfl
@[simp] theorem State.answered_phase : (s.answered).phase = s.phase := rfl
@[simp] theorem State.answered_dIx : (s.answered).dIx = s.dIx := rfl
@[simp] theorem State.answered_sIx : (s.answered).sIx = s.sIx := rfl
@[simp] theorem State.answered_dw : (s.answered).dw = s.dw := rfl
@[simp] theorem State.answered_lines : (s.answered).lines = s.lines := rfl
@[simp] theorem State.answered_err : (s.answered).err = s.err := rfl
@[simp] theorem State.answered_trace : (s.answered).trace = s.trace := rfl
@[simp] theorem State.answered_scan : (s.answered).scan = s.scan := rfl
@[simp] theorem State.answered_calls : (s.answered).calls = s.calls := rfl
@[simp] theorem State.answered_ret : (s.answered).ret = s.ret := rfl
@[simp] theorem State.answered_resetIn : (s.answered).resetIn = s.resetIn := rfl
@[simp] theorem State.answered_answers : (s.answered).answers = s.answers.tail := rfl
@[simp] theorem State.answered_draws : (s.answered).draws = s.draws + 1 := rfl

end answered

section wrote
variable (n : Fin 12) (v : Level)

@[simp] theorem State.wrote_cfg : (s.wrote n v).cfg = s.cfg := rfl
@[simp] theorem State.wrote_text : (s.wrote n v).text = s.text := rfl
@[simp] theorem State.wrote_tlen : (s.wrote n v).tlen = s.tlen := rfl
@[simp] theorem State.wrote_ch : (s.wrote n v).ch = s.ch := rfl
@[simp] theorem State.wrote_pat : (s.wrote n v).pat = s.pat := rfl
@[simp] theorem State.wrote_pt : (s.wrote n v).pt = s.pt := rfl
@[simp] theorem State.wrote_phase : (s.wrote n v).phase = s.phase := rfl
@[simp] theorem State.wrote_dIx : (s.wrote n v).dIx = s.dIx := rfl
@[simp] theorem State.wrote_sIx : (s.wrote n v).sIx = s.sIx := rfl
@[simp] theorem State.wrote_dw : (s.wrote n v).dw = s.dw := rfl
@[simp] theorem State.wrote_lines : (s.wrote n v).lines = s.lines.set n v := rfl
@[simp] theorem State.wrote_err : (s.wrote n v).err = s.err := rfl
@[simp] theorem State.wrote_trace : (s.wrote n v).trace = s.trace ++ [.w n v] := rfl
@[simp] theorem State.wrote_scan : (s.wrote n v).scan = s.scan := rfl
@[simp] theorem State.wrote_calls : (s.wrote n v).calls = s.calls := rfl
@[simp] theorem State.wrote_ret : (s.wrote n v).ret = s.ret := rfl
@[simp] theorem State.wrote_resetIn : (s.wrote n v).resetIn = s.resetIn := rfl
@[simp] theorem State.wrote_answers : (s.wrote n v).answers = s.answers.tail := rfl
@[simp] theorem State.wrote_draws : (s.wrote n v).draws = s.draws + 1 := rfl

end wrote

section writeFailed
variable (n : Fin 12) (v : Level)

@[simp] theorem State.writeFailed_cfg : (s.writeFailed n v).cfg = s.cfg := rfl
@[simp] theorem State.writeFailed_text : (s.writeFailed n v).text = s.text := rfl
@[simp] theorem State.writeFailed_tlen : (s.writeFailed n v).tlen = s.tlen := rfl
@[simp] theorem State.writeFailed_ch : (s.writeFailed n v).ch = s.ch := rfl
@[simp] theorem State.writeFailed_pat : (s.writeFailed n v).pat = s.pat := rfl
@[simp] theorem State.writeFailed_pt : (s.writeFailed n v).pt = s.pt := rfl
@[simp] theorem State.writeFailed_phase : (s.writeFailed n v).phase = .fault := rfl
@[simp] theorem State.writeFailed_dIx : (s.writeFailed n v).dIx = s.dIx := rfl
@[simp] theorem State.writeFailed_sIx : (s.writeFailed n v).sIx = s.sIx := rfl
@[simp] theorem State.writeFailed_dw : (s.writeFailed n v).dw = s.dw := rfl
@[simp] theorem State.writeFailed_lines : (s.writeFailed n v).lines = s.lines.set n (Config.levelAfterFailure s.draws) := rfl
@[simp] theorem State.writeFailed_err : (s.writeFailed n v).err = .hardwareIOFailure := rfl
@[simp] theorem State.writeFailed_trace : (s.writeFailed n v).trace = s.trace ++ [.wf n v] := rfl
@[simp] theorem State.writeFailed_scan : (s.writeFailed n v).scan = s.scan := rfl
@[simp] theorem State.writeFailed_calls : (s.writeFailed n v).calls = s.calls := rfl
@[simp] theorem State.writeFailed_ret : (s.writeFailed n v).ret = s.ret := rfl
@[simp] theorem State.writeFailed_resetIn : (s.writeFailed n v).resetIn = s.resetIn := rfl
@[simp] theorem State.writeFailed_answers : (s.writeFailed n v).answers = s.answers.tail := rfl
@[simp] theorem State.writeFailed_draws : (s.writeFailed n v).draws = s.draws + 1 := rfl

end writeFailed

section latchFrame
variable (f : Frame)

@[simp] theorem State.latchFrame_cfg : (s.latchFrame f).cfg = s.cfg := rfl
@[simp] theorem State.latchFrame_text : (s.latchFrame f).text = s.text := rfl
@[simp] theorem State.latchFrame_tlen : (s.latchFrame f).tlen = s.tlen := rfl
@[simp] theorem State.latchFrame_ch : (s.latchFrame f).ch = perDigit Glyph.code f := rfl
@[simp] theorem State.latchFrame_pat : (s.latchFrame f).pat = perDigit (encodeGlyph s.cfg) f := rfl
@[simp] theorem State.latchFrame_pt : (s.latchFrame f).pt = f.points := rfl
@[simp] theorem State.latchFrame_phase : (s.latchFrame f).phase = s.phase := rfl
@[simp] theorem State.latchFrame_dIx : (s.latchFrame f).dIx = s.dIx := rfl
@[simp] theorem State.latchFrame_sIx : (s.latchFrame f).sIx = s.sIx := rfl
@[simp] theorem State.latchFrame_dw : (s.latchFrame f).dw = s.dw := rfl
@[simp] theorem State.latchFrame_lines : (s.latchFrame f).lines = s.lines := rfl
@[simp] theorem State.latchFrame_err : (s.latchFrame f).err = s.err := rfl
@[simp] theorem State.latchFrame_trace : (s.latchFrame f).trace = s.trace := rfl
@[simp] theorem State.latchFrame_scan : (s.latchFrame f).scan = s.scan := rfl
@[simp] theorem State.latchFrame_calls : (s.latchFrame f).calls = s.calls := rfl
@[simp] theorem State.latchFrame_ret : (s.latchFrame f).ret = s.ret := rfl
@[simp] theorem State.latchFrame_resetIn : (s.latchFrame f).resetIn = s.resetIn := rfl
@[simp] theorem State.latchFrame_answers : (s.latchFrame f).answers = s.answers := rfl
@[simp] theorem State.latchFrame_draws : (s.latchFrame f).draws = s.draws := rfl

end latchFrame

section waitDwell

@[simp] theorem State.waitDwell_cfg : (s.waitDwell).cfg = s.cfg := rfl
@[simp] theorem State.waitDwell_text : (s.waitDwell).text = s.text := rfl
@[simp] theorem State.waitDwell_tlen : (s.waitDwell).tlen = s.tlen := rfl
@[simp] theorem State.waitDwell_ch : (s.waitDwell).ch = s.ch := rfl
@[simp] theorem State.waitDwell_pat : (s.waitDwell).pat = s.pat := rfl
@[simp] theorem State.waitDwell_pt : (s.waitDwell).pt = s.pt := rfl
@[simp] theorem State.waitDwell_phase : (s.waitDwell).phase = s.phase := rfl
@[simp] theorem State.waitDwell_dIx : (s.waitDwell).dIx = s.dIx := rfl
@[simp] theorem State.waitDwell_sIx : (s.waitDwell).sIx = s.sIx := rfl
@[simp] theorem State.waitDwell_dw : (s.waitDwell).dw = 0 := rfl
@[simp] theorem State.waitDwell_lines : (s.waitDwell).lines = s.lines := rfl
@[simp] theorem State.waitDwell_err : (s.waitDwell).err = s.err := rfl
@[simp] theorem State.waitDwell_trace : (s.waitDwell).trace = s.trace ++ List.replicate s.cfg.dwellTicks .tick := rfl
@[simp] theorem State.waitDwell_scan : (s.waitDwell).scan = s.scan := rfl
@[simp] theorem State.waitDwell_calls : (s.waitDwell).calls = s.calls := rfl
@[simp] theorem State.waitDwell_ret : (s.waitDwell).ret = s.ret := rfl
@[simp] theorem State.waitDwell_resetIn : (s.waitDwell).resetIn = s.resetIn := rfl
@[simp] theorem State.waitDwell_answers : (s.waitDwell).answers = s.answers := rfl
@[simp] theorem State.waitDwell_draws : (s.waitDwell).draws = s.draws := rfl

end waitDwell

section latchText
variable (t : List Char8)

@[simp] theorem State.latchText_cfg : (s.latchText t).cfg = s.cfg := by unfold State.latchText; split <;> rfl
@[simp] theorem State.latchText_ch : (s.latchText t).ch = s.ch := by unfold State.latchText; split <;> rfl
@[simp] theorem State.latchText_pat : (s.latchText t).pat = s.pat := by unfold State.latchText; split <;> rfl
@[simp] theorem State.latchText_pt : (s.latchText t).pt = s.pt := by unfold State.latchText; split <;> rfl
@[simp] theorem State.latchText_phase : (s.latchText t).phase = s.phase := by unfold State.latchText; split <;> rfl
@[simp] theorem State.latchText_dIx : (s.latchText t).dIx = s.dIx := by unfold State.latchText; split <;> rfl
@[simp] theorem State.latchText_sIx : (s.latchText t).sIx = s.sIx := by unfold State.latchText; split <;> rfl
@[simp] theorem State.latchText_dw : (s.latchText t).dw = s.dw := by unfold State.latchText; split <;> rfl
@[simp] theorem State.latchText_lines : (s.latchText t).lines = s.lines := by unfold State.latchText; split <;> rfl
@[simp] theorem State.latchText_err : (s.latchText t).err = s.err := by unfold State.latchText; split <;> rfl
@[simp] theorem State.latchText_trace : (s.latchText t).trace = s.trace := by unfold State.latchText; split <;> rfl
@[simp] theorem State.latchText_scan : (s.latchText t).scan = s.scan := by unfold State.latchText; split <;> rfl
@[simp] theorem State.latchText_calls : (s.latchText t).calls = s.calls := by unfold State.latchText; split <;> rfl
@[simp] theorem State.latchText_ret : (s.latchText t).ret = s.ret := by unfold State.latchText; split <;> rfl
@[simp] theorem State.latchText_resetIn : (s.latchText t).resetIn = s.resetIn := by unfold State.latchText; split <;> rfl
@[simp] theorem State.latchText_answers : (s.latchText t).answers = s.answers := by unfold State.latchText; split <;> rfl
@[simp] theorem State.latchText_draws : (s.latchText t).draws = s.draws := by unfold State.latchText; split <;> rfl

end latchText

end Sys2Proof.Machine
end

