-- ==== Sys2Proof/Laws/Ops.lean ====
section
/-! SUPPORT. What each shared operation can do, said once: the line registers after a write, the outcome
of a line write, of the sequencer's advances, of ACCEPT, of a fetch. -/

namespace Sys2Proof.Machine

/-! ## Line registers -/

@[simp] theorem segLine_val (i : Fin 7) : (segLine i).val = i.val := rfl

@[simp] theorem digLine_val (d : Fin 4) : (digLine d).val = 8 + d.val := rfl

@[simp] theorem dpLine_val : dpLine.val = 7 := rfl

theorem segLine_injective {i j : Fin 7} (h : segLine i = segLine j) : i = j := by
  simpa [segLine, Fin.ext_iff] using h

theorem digLine_injective {d e : Fin 4} (h : digLine d = digLine e) : d = e := by
  have := congrArg Fin.val h
  simp at this
  exact Fin.ext this

@[simp] theorem segLine_eq_iff (i j : Fin 7) : segLine i = segLine j ↔ i = j :=
  ⟨segLine_injective, congrArg _⟩

@[simp] theorem digLine_eq_iff (d e : Fin 4) : digLine d = digLine e ↔ d = e :=
  ⟨digLine_injective, congrArg _⟩

@[simp] theorem segLine_ne_digLine (i : Fin 7) (d : Fin 4) : segLine i ≠ digLine d := by
  intro h
  have := congrArg Fin.val h
  simp at this
  omega

@[simp] theorem digLine_ne_segLine (i : Fin 7) (d : Fin 4) : digLine d ≠ segLine i :=
  (segLine_ne_digLine i d).symm

@[simp] theorem segLine_ne_dpLine (i : Fin 7) : segLine i ≠ dpLine := by
  intro h
  have := congrArg Fin.val h
  simp at this
  omega

@[simp] theorem dpLine_ne_segLine (i : Fin 7) : dpLine ≠ segLine i := (segLine_ne_dpLine i).symm

@[simp] theorem digLine_ne_dpLine (d : Fin 4) : digLine d ≠ dpLine := by
  intro h
  have := congrArg Fin.val h
  simp at this
  omega

@[simp] theorem dpLine_ne_digLine (d : Fin 4) : dpLine ≠ digLine d := (digLine_ne_dpLine d).symm

/-- Every line is a segment line, the point line or a digit line (R43). -/
theorem line_cases (n : Fin 12) : (∃ i, n = segLine i) ∨ n = dpLine ∨ ∃ d, n = digLine d := by
  rcases Nat.lt_trichotomy n.val 7 with h | h | h
  · exact .inl ⟨⟨n.val, h⟩, Fin.ext rfl⟩
  · exact .inr (.inl (Fin.ext h))
  · exact .inr (.inr ⟨⟨n.val - 8, by omega⟩, Fin.ext (by simp; omega)⟩)

/-- A line register changes only when its own line is written. -/
theorem line_of_set {s t : State} {n : Fin 12} {v : Level} (h : t.lines = s.lines.set n v) (m : Fin 12) :
    t.line m = if m = n then v else s.line m := by
  simp [State.line, h, Vector.getElem_set, Fin.ext_iff, eq_comm]

theorem line_of_lines_eq {s t : State} (h : t.lines = s.lines) (m : Fin 12) : t.line m = s.line m := by
  simp [State.line, h]

@[simp] theorem State.wrote_line (s : State) (n m : Fin 12) (v : Level) :
    (s.wrote n v).line m = if m = n then v else s.line m :=
  line_of_set (State.wrote_lines s n v) m

@[simp] theorem State.writeFailed_line (s : State) (n m : Fin 12) (v : Level) :
    (s.writeFailed n v).line m = if m = n then Config.levelAfterFailure s.draws else s.line m :=
  line_of_set (State.writeFailed_lines s n v) m

/-! ## The line write -/

/-- Everything a line write can do. -/
theorem lineWrite_cases (n : Fin 12) (v : Level) (s : State) :
    s.writeFails = false ∧ lineWrite n v s = .ok (s.wrote n v) ∨
      s.writeFails = true ∧ lineWrite n v s = .raised (s.writeFailed n v) := by
  unfold lineWrite
  cases s.writeFails <;> simp

theorem lineWrite_ok {s : State} (n : Fin 12) (v : Level) (h : s.writeFails = false) :
    lineWrite n v s = .ok (s.wrote n v) := by
  simp [lineWrite, h]

theorem lineWrite_raised {s : State} (n : Fin 12) (v : Level) (h : s.writeFails = true) :
    lineWrite n v s = .raised (s.writeFailed n v) := by
  simp [lineWrite, h]

@[simp] theorem Flow.ok_andThen (s : State) (f : State → Flow) : (Flow.ok s).andThen f = f s := rfl

@[simp] theorem Flow.raised_andThen (s : State) (f : State → Flow) :
    (Flow.raised s).andThen f = .raised s := rfl

@[simp] theorem Flow.ok_finish (s : State) (f : State → State) : (Flow.ok s).finish f = f s := rfl

@[simp] theorem Flow.raised_finish (s : State) (f : State → State) : (Flow.raised s).finish f = s := rfl

theorem Flow.andThen_assoc (x : Flow) (f g : State → Flow) :
    (x.andThen f).andThen g = x.andThen fun s => (f s).andThen g := by
  cases x <;> rfl

/-- A step kind answers in its phase and nowhere else. -/
theorem inPhase_eq_next {p : Phase} {s t : State} {f : State → State} :
    inPhase p s f = .next t ↔ s.phase = p ∧ t = f s := by
  unfold inPhase
  split <;> simp_all [eq_comm]

/-- The next listed answer decides a line write (R152). -/
theorem writeFails_of_head {s : State} {b : Bool} {bs : List Bool} (h : s.answers = b :: bs) :
    s.writeFails = (s.cfg.ioMayFail && b) := by
  simp [State.writeFails, h]

theorem writeFails_of_never {s : State} (h : s.cfg.ioMayFail = false) : s.writeFails = false := by
  simp [State.writeFails, h]

/-! ## Characters -/

@[simp] theorem glyphOf_code (g : Glyph) : glyphOf g.code = some g := by cases g <;> rfl

@[simp] theorem isGlyph_code (g : Glyph) : isGlyph g.code = true := by cases g <;> rfl

@[simp] theorem code_ne_pointCode (g : Glyph) : g.code ≠ pointCode := by cases g <;> decide

@[simp] theorem glyphOf_pointCode : glyphOf pointCode = none := rfl

@[simp] theorem isGlyph_pointCode : isGlyph pointCode = false := rfl

theorem glyphOf_eq_some {c : Char8} {g : Glyph} : glyphOf c = some g ↔ c = g.code := by
  refine ⟨fun h => ?_, fun h => h ▸ glyphOf_code g⟩
  have := List.find?_some h
  simp at this
  exact this.symm

theorem isGlyph_iff {c : Char8} : isGlyph c = true ↔ ∃ g : Glyph, c = g.code := by
  simp [isGlyph, Option.isSome_iff_exists, glyphOf_eq_some]

/-- The two orders of a word, in both directions: the decoder gives a glyph its row, and that row's word
is the glyph's code. -/
theorem encode_glyph_instr (g : Glyph) : encode g.instr = .char8 g.code := by cases g <;> rfl

theorem decode_glyph_code (g : Glyph) : decode (.char8 g.code) = .ok g.instr := by cases g <;> rfl

/-! ## Decode of a display string -/

theorem perDigit_eq_map {α : Type} (g : Glyph → α) (f : Frame) : perDigit g f = f.digits.map g := by
  ext i hi
  rcases (by omega : i = 0 ∨ i = 1 ∨ i = 2 ∨ i = 3) with rfl | rfl | rfl | rfl <;> simp [perDigit]

@[simp] theorem perDigit_getElem {α : Type} (g : Glyph → α) (f : Frame) (i : Nat) (h : i < 4) :
    (perDigit g f)[i] = g f.digits[i] := by
  simp [perDigit_eq_map]

/-- Where the decode succeeds, its three checks hold (R100). -/
theorem decodeFrame_checks {t : List Char8} {f : Frame} (h : decodeFrame t = some f) :
    alphabetOk t = true ∧ countOk t = true ∧ placementOk t = true := by
  unfold decodeFrame at h
  split at h <;> simp_all

/-- Where the decode succeeds, the frame's digits and points are `STRIP(t)` and `POINTS(t)` (R100). -/
theorem decodeFrame_lists {t : List Char8} {f : Frame} (h : decodeFrame t = some f) :
    glyphsOf t = f.digits.toList ∧ pointFlags t = f.points.toList := by
  unfold decodeFrame at h
  split at h
  · simp at h
  split at h
  · simp at h
  split at h
  · simp at h
  split at h
  · rename_i hg hp
    obtain rfl := Option.some.inj h
    exact ⟨hg, hp⟩
  · simp at h

/-- ACCEPT's two outcomes (R122). -/
theorem acceptText_malformed {s : State} {t : List Char8} (h : decodeFrame t = none) :
    s.acceptText t = { s.latchText t with scan := Scan.start, err := .malformedDisplayString } := by
  simp [State.acceptText, h, State.raise]

theorem acceptText_ok {s : State} {t : List Char8} {f : Frame} (h : decodeFrame t = some f) :
    s.acceptText t =
      { (s.latchText t).latchFrame f with
        scan := Scan.start, err := .none, dIx := 0, sIx := 0, phase := .seg } := by
  simp [State.acceptText, h, State.latchFrame]

/-! ## Phases and fetch -/

@[simp] theorem phaseOf_code (p : Phase) : phaseOf p.code = some p := by cases p <;> rfl

theorem decodePhase_code_injective {p q : Phase} (h : p.code = q.code) : p = q := by
  cases p <;> cases q <;> first | rfl | (exact absurd h (by decide))

end Sys2Proof.Machine
end

