-- ==== Sys2Proof/Laws/Decode.lean ====
section
/-! SUPPORT. Display strings as spellings of slots (`spec/30_encoding.md` R62): what each part of the
decode does to a spelling, and that a string which passes the checks, matches the grammar or decodes is a
spelling of four slots. -/

namespace Sys2Proof.Machine

/-- The spelling of any number of slots one after another (R62). -/
def spellSlots (l : List (Glyph × Bool)) : List Char8 := l.flatMap fun p => spellSlot p.1 p.2

@[simp] theorem spellSlots_nil : spellSlots [] = [] := rfl
theorem spellSlots_cons (p l) : spellSlots (p :: l) = spellSlot p.1 p.2 ++ spellSlots l := rfl

/-- A spelling never begins with a point marker. -/
theorem head_spellSlots (l) : (spellSlots l).head? ≠ some pointCode := by
  cases l with
  | nil => simp
  | cons p l => simp [spellSlots_cons, spellSlot]

theorem alphabetOk_spell (l) : alphabetOk (spellSlots l) = true := by
  induction l with
  | nil => rfl
  | cons p l ih =>
    obtain ⟨g, b⟩ := p
    simp only [alphabetOk, spellSlots_cons] at ih ⊢
    cases b <;> simp_all [spellSlot]

theorem placedAfter_of_head {b : Bool} {x : List Char8} (h : x.head? ≠ some pointCode) :
    placedAfter b x = placedAfter false x := by
  cases x with
  | nil => rfl
  | cons c r =>
    have : c ≠ pointCode := by simpa using h
    simp [placedAfter, this]

theorem placedAfter_spell (b l) : placedAfter b (spellSlots l) = true := by
  induction l generalizing b with
  | nil => rfl
  | cons p l ih =>
    obtain ⟨g, q⟩ := p
    cases q <;> simp [spellSlots_cons, spellSlot, placedAfter, ih]

theorem strip_spell (l) : strip (spellSlots l) = l.map fun p => p.1.code := by
  induction l with
  | nil => rfl
  | cons p l ih =>
    obtain ⟨g, q⟩ := p
    simp only [strip] at ih ⊢
    cases q <;> simp [spellSlots_cons, spellSlot, ih]

theorem glyphsOf_spell (l) : glyphsOf (spellSlots l) = l.map Prod.fst := by
  induction l with
  | nil => rfl
  | cons p l ih =>
    obtain ⟨g, q⟩ := p
    simp only [glyphsOf] at ih ⊢
    cases q <;> simp [spellSlots_cons, spellSlot, List.filterMap_cons, ih]

theorem pointFlags_spell (l) : pointFlags (spellSlots l) = l.map Prod.snd := by
  induction l with
  | nil => rfl
  | cons p l ih =>
    obtain ⟨g, q⟩ := p
    cases q
    · have := head_spellSlots l
      simp [spellSlots_cons, spellSlot, pointFlags, ih, this]
    · simp [spellSlots_cons, spellSlot, pointFlags, ih]

/-- A string of the alphabet whose point markers are well placed is a spelling of slots (R62, R104). -/
theorem exists_slots {x : List Char8} (ha : alphabetOk x = true) (hp : placedAfter false x = true) :
    ∃ l, x = spellSlots l := by
  induction hn : x.length using Nat.strong_induction_on generalizing x with
  | _ n ih =>
  subst hn
  match x, ha, hp, ih with
  | [], _, _, _ => exact ⟨[], rfl⟩
  | c :: r, ha, hp, ih =>
    have hc : c ≠ pointCode := by
      rintro rfl
      simp [placedAfter] at hp
    have ha' : isGlyph c = true ∧ alphabetOk r = true := by
      simp only [alphabetOk, List.all_cons, Bool.and_eq_true, Bool.or_eq_true, beq_iff_eq] at ha ⊢
      exact ⟨ha.1.resolve_right hc, ha.2⟩
    simp [placedAfter, hc, ha'.1] at hp
    obtain ⟨g, rfl⟩ := isGlyph_iff.mp ha'.1
    by_cases hh : r.head? = some pointCode
    · obtain ⟨r2, rfl⟩ : ∃ r2, r = pointCode :: r2 := by
        cases r with
        | nil => simp at hh
        | cons a b => simp at hh; exact ⟨b, by rw [hh]⟩
      simp [placedAfter] at hp
      have ha2 : alphabetOk r2 = true := by
        have := ha'.2
        simp only [alphabetOk, List.all_cons, Bool.and_eq_true] at this ⊢
        exact this.2
      obtain ⟨l, rfl⟩ := ih r2.length (by simp) ha2 hp rfl
      exact ⟨(g, true) :: l, by simp [spellSlots_cons, spellSlot]⟩
    · rw [placedAfter_of_head hh] at hp
      obtain ⟨l, rfl⟩ := ih r.length (by simp) ha'.2 hp rfl
      exact ⟨(g, false) :: l, by simp [spellSlots_cons, spellSlot]⟩

theorem spell_eq_spellSlots (f : Frame) :
    spell f = spellSlots [(f.digits[0], f.points[0]), (f.digits[1], f.points[1]),
      (f.digits[2], f.points[2]), (f.digits[3], f.points[3])] := by
  simp [spell, spellSlots_cons]

theorem vector4_eq {α} (v : Vector α 4) : #v[v[0], v[1], v[2], v[3]] = v := by
  ext i hi
  have : i = 0 ∨ i = 1 ∨ i = 2 ∨ i = 3 := by omega
  rcases this with rfl | rfl | rfl | rfl <;> rfl

theorem vector4_toList {α} (v : Vector α 4) : v.toList = [v[0], v[1], v[2], v[3]] := by
  conv_lhs => rw [← vector4_eq v]
  rfl

/-- The decode of four slots (R100). -/
theorem decode_slots {l : List (Glyph × Bool)} {a b c d} (h : l = [a, b, c, d]) :
    decodeFrame (spellSlots l) = some ⟨#v[a.1, b.1, c.1, d.1], #v[a.2, b.2, c.2, d.2]⟩ := by
  have h1 := alphabetOk_spell l
  have h2 : countOk (spellSlots l) = true := by simp [countOk, strip_spell, h]
  have h3 : placementOk (spellSlots l) = true := placedAfter_spell _ _
  simp only [decodeFrame, h1, h2, h3, glyphsOf_spell, pointFlags_spell]
  simp [h]

/-- The three checks leave only spellings of four slots (R102 to R104). -/
theorem slots_of_checks {x : List Char8} (ha : alphabetOk x = true) (hc : countOk x = true)
    (hp : placementOk x = true) : ∃ a b c d, x = spellSlots [a, b, c, d] := by
  obtain ⟨l, rfl⟩ := exists_slots ha hp
  simp only [countOk, strip_spell, List.length_map, beq_iff_eq] at hc
  match l, hc with
  | [a, b, c, d], _ => exact ⟨a, b, c, d, rfl⟩

/-- Everything a successful decode can be. -/
theorem slots_of_decode {x : List Char8} {f : Frame} (h : decodeFrame x = some f) :
    ∃ a b c d, x = spellSlots [a, b, c, d] ∧
      f = ⟨#v[a.1, b.1, c.1, d.1], #v[a.2, b.2, c.2, d.2]⟩ := by
  obtain ⟨ha, hc, hp⟩ := decodeFrame_checks h
  obtain ⟨a, b, c, d, rfl⟩ := slots_of_checks ha hc hp
  rw [decode_slots rfl] at h
  exact ⟨a, b, c, d, rfl, (Option.some.inj h).symm⟩

theorem isSlots_spell (l) : isSlots l.length (spellSlots l) = true := by
  induction l with
  | nil => rfl
  | cons p l ih =>
    obtain ⟨g, q⟩ := p
    cases q
    · simp only [spellSlots_cons, spellSlot, List.length_cons]
      have hd := head_spellSlots l
      cases hx : spellSlots l with
      | nil => simp [isSlots]; rw [← hx]; exact ih
      | cons c r =>
        rw [hx] at hd ih
        have : c ≠ pointCode := by simpa using hd
        simp [isSlots, this, ih]
    · simp [spellSlots_cons, spellSlot, isSlots, ih]

theorem slots_of_isSlots {n : Nat} {x : List Char8} (h : isSlots n x = true) :
    ∃ l, l.length = n ∧ x = spellSlots l := by
  induction n generalizing x with
  | zero =>
    simp [isSlots] at h; exact ⟨[], rfl, h⟩
  | succ n ih =>
    match x with
    | [] => simp [isSlots] at h
    | [g] =>
      simp [isSlots] at h
      obtain ⟨g, rfl⟩ := isGlyph_iff.mp h.1
      obtain ⟨l, hl, hx⟩ := ih h.2
      exact ⟨(g, false) :: l, by simp [hl], by simp [spellSlots_cons, spellSlot, ← hx]⟩
    | g :: c :: r =>
      simp [isSlots] at h
      obtain ⟨g, rfl⟩ := isGlyph_iff.mp h.1
      by_cases hc : c = pointCode
      · simp [hc] at h
        obtain ⟨l, hl, hx⟩ := ih h
        exact ⟨(g, true) :: l, by simp [hl], by simp [spellSlots_cons, spellSlot, ← hx, hc]⟩
      · simp [hc] at h
        obtain ⟨l, hl, hx⟩ := ih h
        exact ⟨(g, false) :: l, by simp [hl], by simp [spellSlots_cons, spellSlot, ← hx]⟩

/-- The grammar's strings are the spellings of four slots (R62). -/
theorem display_iff (x : List Char8) :
    isDisplayString x = true ↔ ∃ a b c d, x = spellSlots [a, b, c, d] := by
  constructor
  · intro h
    obtain ⟨l, hl, rfl⟩ := slots_of_isSlots h
    match l, hl with
    | [a, b, c, d], _ => exact ⟨a, b, c, d, rfl⟩
  · rintro ⟨a, b, c, d, rfl⟩
    exact isSlots_spell [a, b, c, d]

/-- A point marker after a slot marks that slot (R105). -/
theorem pointLast_append (xs : List Slot) (x : Slot) :
    pointLast (xs ++ [x]) = xs ++ [{ x with point := true }] := by
  induction xs with
  | nil => rfl
  | cons y ys ih =>
    cases ys with
    | nil => rfl
    | cons z zs => simpa [pointLast] using ih

end Sys2Proof.Machine
end

