-- ==== Sys2Proof/Laws/PerInstr.lean ====
section
/-! SUPPORT. Statements made instruction by instruction: each instruction has exactly one word. -/

namespace Sys2Proof.Laws

/-- An instruction is decoded from its own word (R70) and from no other word of any format, so the decoder
drops no bit of it and no illegal or reserved form (R68) falls through to it. -/
def WordRoundTrip.Statement (i : Instr) : Prop := ∀ w, decode w = .ok i ↔ w = encode i

namespace WordRoundTrip

/-- What each format's words decode to. -/
theorem char_cases {c : Char8} {i : Instr} (h : decode (.char8 c) = .ok i) :
    (c = pointCode ∧ i = .point) ∨ ∃ g : Glyph, c = g.code ∧ i = g.instr := by
  simp only [decode, decodeChar] at h
  split at h
  · exact .inl ⟨‹_›, by simpa using h.symm⟩
  · split at h
    · rename_i g hg
      have hc := List.find?_some hg
      simp at hc
      exact .inr ⟨g, hc.symm, by simpa using h.symm⟩
    · simp at h

theorem op_cases {n : BitVec 2} {t : List Char8} {i : Instr} (h : decode (.op n t) = .ok i) :
    (∃ c, n = 0#2 ∧ t = [c] ∧ i = .encode c) ∨ (n = 1#2 ∧ i = .decodeFrame t) ∨
      (n = 2#2 ∧ i = .render t) := by
  simp only [decode, decodeOp] at h
  split at h
  · rename_i c hn
    exact .inl ⟨c, BitVec.eq_of_toNat_eq hn, rfl, by simpa using h.symm⟩
  · simp at h
  · rename_i hn
    exact .inr (.inl ⟨BitVec.eq_of_toNat_eq hn, by simpa using h.symm⟩)
  · rename_i hn
    exact .inr (.inr ⟨BitVec.eq_of_toNat_eq hn, by simpa using h.symm⟩)
  · simp at h

theorem phase_cases {p : BitVec 3} {i : Instr} (h : decode (.phase3 p) = .ok i) :
    (p = 0#3 ∧ i = .accept) ∨ (p = 1#3 ∧ i = .segWrite) ∨ (p = 2#3 ∧ i = .dpWrite) ∨
      (p = 3#3 ∧ i = .digOn) ∨ (p = 4#3 ∧ i = .dwell) ∨ (p = 5#3 ∧ i = .digOff) := by
  simp only [decode, decodePhase] at h
  split at h
  all_goals first
    | (simp at h; done)
    | (rename_i hp
       have hq : p = BitVec.ofNat 3 p.toNat := by simp
       rw [hp] at hq
       simp at h
       simp [hq, ← h])

/-- A decoded word is the word of its instruction. -/
theorem encode_of_decode {w : Word} {i : Instr} (h : decode w = .ok i) : w = encode i := by
  cases w with
  | char8 c =>
    obtain ⟨rfl, rfl⟩ | ⟨g, rfl, rfl⟩ := char_cases h
    · rfl
    · cases g <;> rfl
  | op n t =>
    obtain ⟨c, rfl, rfl, rfl⟩ | ⟨rfl, rfl⟩ | ⟨rfl, rfl⟩ := op_cases h <;> rfl
  | phase3 p =>
    obtain ⟨rfl, rfl⟩ | ⟨rfl, rfl⟩ | ⟨rfl, rfl⟩ | ⟨rfl, rfl⟩ | ⟨rfl, rfl⟩ | ⟨rfl, rfl⟩ := phase_cases h
      <;> rfl

/-- An instruction whose own word decodes to it has exactly that word. -/
theorem of_own_word {i : Instr} (h : decode (encode i) = .ok i) : Statement i :=
  fun _ => ⟨encode_of_decode, fun hw => hw ▸ h⟩

theorem space : Statement .space := of_own_word rfl
theorem digit0 : Statement .digit0 := of_own_word rfl
theorem digit1 : Statement .digit1 := of_own_word rfl
theorem digit2 : Statement .digit2 := of_own_word rfl
theorem digit3 : Statement .digit3 := of_own_word rfl
theorem digit4 : Statement .digit4 := of_own_word rfl
theorem digit5 : Statement .digit5 := of_own_word rfl
theorem digit6 : Statement .digit6 := of_own_word rfl
theorem digit7 : Statement .digit7 := of_own_word rfl
theorem digit8 : Statement .digit8 := of_own_word rfl
theorem digit9 : Statement .digit9 := of_own_word rfl
theorem letterE : Statement .letterE := of_own_word rfl
theorem letterR : Statement .letterR := of_own_word rfl
theorem point : Statement .point := of_own_word rfl
theorem encode (c : Char8) : Statement (.encode c) := of_own_word rfl
theorem decodeFrame (t : List Char8) : Statement (.decodeFrame t) := of_own_word rfl
theorem render (t : List Char8) : Statement (.render t) := of_own_word rfl
theorem accept : Statement .accept := of_own_word rfl
theorem segWrite : Statement .segWrite := of_own_word rfl
theorem dpWrite : Statement .dpWrite := of_own_word rfl
theorem digOn : Statement .digOn := of_own_word rfl
theorem dwell : Statement .dwell := of_own_word rfl
theorem digOff : Statement .digOff := of_own_word rfl

end WordRoundTrip

end Sys2Proof.Laws
end

