-- ==== Sys2Proof/Laws/Steps.lean ====
section
/-! SUPPORT. The step kinds in the state that enables them, with and without a failed write; what a step
fetches in each phase; and running one step more. -/

namespace Sys2Proof.Machine

variable {s : State}

/-! ## The meanings of the step kinds, equation by equation -/

theorem execSegWrite_ok (hp : s.phase = .seg) (hw : s.writeFails = false) :
    exec .segWrite s = .next (afterSeg (s.wrote (segLine s.sIx) (s.pat[s.dIx])[s.sIx.val])) := by
  simp [exec, execSegWrite, inPhase, hp, lineWrite_ok _ _ hw]

theorem execDpWrite_ok (hp : s.phase = .dp) (hw : s.writeFails = false) :
    exec .dpWrite s = .next { s.wrote dpLine (Level.ofBool (!s.pt[s.dIx])) with phase := .on } := by
  simp [exec, execDpWrite, inPhase, hp, lineWrite_ok _ _ hw]

theorem execDigOn_ok (hp : s.phase = .on) (hw : s.writeFails = false) :
    exec .digOn s =
      .next { s.wrote (digLine s.dIx) s.active with dw := s.cfg.dwellTicks, phase := .dwell } := by
  simp [exec, execDigOn, inPhase, hp, lineWrite_ok _ _ hw]

theorem execDwell_more (hp : s.phase = .dwell) (hd : 1 < s.dw) :
    exec .dwell s = .next { s.record .tick with dw := s.dw - 1 } := by
  simp [exec, execDwell, inPhase, hp, hd]

theorem execDwell_last (hp : s.phase = .dwell) (hd : s.dw ≤ 1) :
    exec .dwell s = .next { s.record .tick with dw := 0, phase := .off } := by
  simp [exec, execDwell, inPhase, hp, Nat.not_lt.mpr hd]

theorem execDigOff_ok (hp : s.phase = .off) (hw : s.writeFails = false) :
    exec .digOff s = .next (afterOff (s.wrote (digLine s.dIx) s.inactive)) := by
  simp [exec, execDigOff, inPhase, hp, lineWrite_ok _ _ hw]

/-- A failed write ends every step kind in the same way (R157). -/
theorem exec_writeFailed {i : Instr} {n : Fin 12} {v : Level} (hp : stepPhase i = some s.phase)
    (hw : stepWrite i s = some (n, v)) (hf : s.writeFails = true) :
    exec i s = .next (s.writeFailed n v) := by
  cases i <;> simp [stepWrite] at hw <;> simp [stepPhase] at hp <;> obtain ⟨rfl, rfl⟩ := hw <;>
    simp [exec, execSegWrite, execDpWrite, execDigOn, execDigOff, inPhase, ← hp, lineWrite_raised _ _ hf]

theorem execAccept_request {x : List Char8} {rest : List Call} (hp : s.phase = .idle)
    (hc : s.calls = .op 2#2 x :: rest) :
    exec .accept s = .next ({ s with calls := rest }.acceptText x) := by
  simp [exec, execAccept, hp, hc]

/-! ## The sequencer's advances -/

theorem afterSeg_more (h : s.sIx.val < 6) : afterSeg s = { s with sIx := ⟨s.sIx.val + 1, by omega⟩ } := by
  simp [afterSeg, h]

theorem afterSeg_last (h : ¬ s.sIx.val < 6) : afterSeg s = { s with phase := .dp } := by
  simp [afterSeg, h]

theorem afterOff_more (h : s.dIx.val < 3) :
    afterOff s = { s with dIx := ⟨s.dIx.val + 1, by omega⟩, sIx := 0, phase := .seg } := by
  simp [afterOff, h]

theorem afterOff_last (h : ¬ s.dIx.val < 3) : afterOff s = { s with dIx := 0, sIx := 0, phase := .idle } := by
  simp [afterOff, h]

@[simp] theorem afterSeg_cfg : (afterSeg s).cfg = s.cfg := by unfold afterSeg; split <;> rfl
@[simp] theorem afterSeg_text : (afterSeg s).text = s.text := by unfold afterSeg; split <;> rfl
@[simp] theorem afterSeg_tlen : (afterSeg s).tlen = s.tlen := by unfold afterSeg; split <;> rfl
@[simp] theorem afterSeg_ch : (afterSeg s).ch = s.ch := by unfold afterSeg; split <;> rfl
@[simp] theorem afterSeg_pat : (afterSeg s).pat = s.pat := by unfold afterSeg; split <;> rfl
@[simp] theorem afterSeg_pt : (afterSeg s).pt = s.pt := by unfold afterSeg; split <;> rfl
@[simp] theorem afterSeg_dw : (afterSeg s).dw = s.dw := by unfold afterSeg; split <;> rfl
@[simp] theorem afterSeg_lines : (afterSeg s).lines = s.lines := by unfold afterSeg; split <;> rfl
@[simp] theorem afterSeg_err : (afterSeg s).err = s.err := by unfold afterSeg; split <;> rfl
@[simp] theorem afterSeg_trace : (afterSeg s).trace = s.trace := by unfold afterSeg; split <;> rfl
@[simp] theorem afterSeg_scan : (afterSeg s).scan = s.scan := by unfold afterSeg; split <;> rfl
@[simp] theorem afterSeg_calls : (afterSeg s).calls = s.calls := by unfold afterSeg; split <;> rfl
@[simp] theorem afterSeg_ret : (afterSeg s).ret = s.ret := by unfold afterSeg; split <;> rfl
@[simp] theorem afterSeg_resetIn : (afterSeg s).resetIn = s.resetIn := by unfold afterSeg; split <;> rfl
@[simp] theorem afterSeg_answers : (afterSeg s).answers = s.answers := by unfold afterSeg; split <;> rfl
@[simp] theorem afterSeg_draws : (afterSeg s).draws = s.draws := by unfold afterSeg; split <;> rfl
@[simp] theorem afterSeg_dIx : (afterSeg s).dIx = s.dIx := by unfold afterSeg; split <;> rfl

@[simp] theorem afterOff_cfg : (afterOff s).cfg = s.cfg := by unfold afterOff; split <;> rfl
@[simp] theorem afterOff_text : (afterOff s).text = s.text := by unfold afterOff; split <;> rfl
@[simp] theorem afterOff_tlen : (afterOff s).tlen = s.tlen := by unfold afterOff; split <;> rfl
@[simp] theorem afterOff_ch : (afterOff s).ch = s.ch := by unfold afterOff; split <;> rfl
@[simp] theorem afterOff_pat : (afterOff s).pat = s.pat := by unfold afterOff; split <;> rfl
@[simp] theorem afterOff_pt : (afterOff s).pt = s.pt := by unfold afterOff; split <;> rfl
@[simp] theorem afterOff_dw : (afterOff s).dw = s.dw := by unfold afterOff; split <;> rfl
@[simp] theorem afterOff_lines : (afterOff s).lines = s.lines := by unfold afterOff; split <;> rfl
@[simp] theorem afterOff_err : (afterOff s).err = s.err := by unfold afterOff; split <;> rfl
@[simp] theorem afterOff_trace : (afterOff s).trace = s.trace := by unfold afterOff; split <;> rfl
@[simp] theorem afterOff_scan : (afterOff s).scan = s.scan := by unfold afterOff; split <;> rfl
@[simp] theorem afterOff_calls : (afterOff s).calls = s.calls := by unfold afterOff; split <;> rfl
@[simp] theorem afterOff_ret : (afterOff s).ret = s.ret := by unfold afterOff; split <;> rfl
@[simp] theorem afterOff_resetIn : (afterOff s).resetIn = s.resetIn := by unfold afterOff; split <;> rfl
@[simp] theorem afterOff_answers : (afterOff s).answers = s.answers := by unfold afterOff; split <;> rfl
@[simp] theorem afterOff_draws : (afterOff s).draws = s.draws := by unfold afterOff; split <;> rfl
@[simp] theorem afterOff_sIx : (afterOff s).sIx = 0 := by unfold afterOff; split <;> rfl

/-! ## One step -/

theorem step_reset (hr : s.resetIn = true) : step s = .next s.doReset := by
  simp [step, hr]

theorem step_seg (hr : s.resetIn = false) (hp : s.phase = .seg) : step s = exec .segWrite s := by
  simp [step, hr, fetch, hp, decode, decodePhase, Phase.code]

theorem step_dp (hr : s.resetIn = false) (hp : s.phase = .dp) : step s = exec .dpWrite s := by
  simp [step, hr, fetch, hp, decode, decodePhase, Phase.code]

theorem step_on (hr : s.resetIn = false) (hp : s.phase = .on) : step s = exec .digOn s := by
  simp [step, hr, fetch, hp, decode, decodePhase, Phase.code]

theorem step_dwell (hr : s.resetIn = false) (hp : s.phase = .dwell) : step s = exec .dwell s := by
  simp [step, hr, fetch, hp, decode, decodePhase, Phase.code]

theorem step_off (hr : s.resetIn = false) (hp : s.phase = .off) : step s = exec .digOff s := by
  simp [step, hr, fetch, hp, decode, decodePhase, Phase.code]

theorem step_request {x : List Char8} {rest : List Call} (hr : s.resetIn = false) (hp : s.phase = .idle)
    (hc : s.calls = .op 2#2 x :: rest) : step s = exec .accept s := by
  simp [step, hr, fetch, hp, hc, decode, decodePhase, Phase.code]

theorem step_fault (hr : s.resetIn = false) (hp : s.phase = .fault) : step s = .fault .stuckInFault := by
  simp [step, hr, fetch, hp, noStep]

theorem step_wait (hr : s.resetIn = false) (hp : s.phase = .idle) (hc : s.calls = []) :
    step s = .next s := by
  simp [step, hr, fetch, hp, hc, noStep]

/-- Everything an ENCODE, DECODE_FRAME or character call can change when a step runs it in `IDLE`. -/
def CallAnswered (s t : State) : Prop :=
  t = { s with calls := t.calls, ret := t.ret, scan := t.scan }

theorem exec_char_answers {c : Char8} {i : Instr} {t : State} (hd : decode (.char8 c) = .ok i)
    (h : exec i s = .next t) : CallAnswered s t := by
  simp only [decode, decodeChar] at hd
  split at hd
  · simp at hd
    subst hd
    simp [exec, execPoint] at h
    subst h
    rfl
  · split at hd
    · rename_i g _
      simp at hd
      subst hd
      cases g <;>
        simp [Glyph.instr, exec, execSpace, execDigit0, execDigit1, execDigit2, execDigit3, execDigit4,
          execDigit5, execDigit6, execDigit7, execDigit8, execDigit9, execLetterE, execLetterR,
          glyphMet] at h <;> subst h <;> rfl
    · simp at hd

theorem exec_op_answers {n : BitVec 2} {x : List Char8} {i : Instr} {t : State} (hn : n ≠ 2#2)
    (hd : decode (.op n x) = .ok i) (h : exec i s = .next t) : CallAnswered s t := by
  simp only [decode, decodeOp] at hd
  split at hd <;> simp at hd <;> subst hd
  · simp [exec, execEncode] at h
    subst h
    rfl
  · simp [exec, execDecodeFrame] at h
    subst h
    rfl
  · rename_i h2
    exact absurd (BitVec.eq_of_toNat_eq h2) hn

/-- Everything a step can be. -/
theorem step_cases {t : State} (h : step s = .next t) :
    (s.resetIn = true ∧ t = s.doReset) ∨
    (s.resetIn = false ∧
      ((s.phase = .idle ∧ ∃ x rest, s.calls = .op 2#2 x :: rest ∧
          t = { s with calls := rest }.acceptText x) ∨
        (s.phase = .idle ∧ CallAnswered s t) ∨
        (s.phase = .seg ∧ exec .segWrite s = .next t) ∨ (s.phase = .dp ∧ exec .dpWrite s = .next t) ∨
        (s.phase = .on ∧ exec .digOn s = .next t) ∨ (s.phase = .dwell ∧ exec .dwell s = .next t) ∨
        (s.phase = .off ∧ exec .digOff s = .next t))) := by
  cases hr : s.resetIn with
  | true =>
    rw [step_reset hr] at h
    exact .inl ⟨rfl, by simpa using h.symm⟩
  | false =>
    refine .inr ⟨rfl, ?_⟩
    cases hp : s.phase with
    | seg => rw [step_seg hr hp] at h; simp [h]
    | dp => rw [step_dp hr hp] at h; simp [h]
    | on => rw [step_on hr hp] at h; simp [h]
    | dwell => rw [step_dwell hr hp] at h; simp [h]
    | off => rw [step_off hr hp] at h; simp [h]
    | fault => rw [step_fault hr hp] at h; simp at h
    | idle =>
      cases hc : s.calls with
      | nil =>
        rw [step_wait hr hp hc] at h
        obtain rfl : s = t := by simpa using h
        exact .inr (.inl ⟨rfl, rfl⟩)
      | cons c rest =>
        cases c with
        | char c =>
          refine .inr (.inl ⟨rfl, ?_⟩)
          simp only [step, hr, fetch, hp, hc] at h
          simp only [Bool.false_eq_true, if_false] at h
          split at h
          · rename_i hd
            have := exec_char_answers hd h
            simpa [CallAnswered, hp, hr] using this
          · simp at h
        | op n x =>
          by_cases hn : n = 2#2
          · subst hn
            rw [step_request hr hp hc, execAccept_request hp hc] at h
            exact .inl ⟨rfl, x, rest, rfl, by simpa [hp, hr] using h.symm⟩
          · refine .inr (.inl ⟨rfl, ?_⟩)
            simp only [step, hr, fetch, hp, hc, hn] at h
            simp only [Bool.false_eq_true, if_false] at h
            split at h
            · rename_i hd
              have := exec_op_answers hn hd h
              simpa [CallAnswered, hp, hr] using this
            · simp at h

/-! ## What becomes of the caller's calls -/

@[simp] theorem acceptText_calls (s : State) (x : List Char8) : (s.acceptText x).calls = s.calls := by
  unfold State.acceptText State.latchText State.latchFrame
  cases decodeFrame x <;> simp [State.raise] <;> split <;> rfl

theorem finish_calls {n : Fin 12} {v : Level} {f : State → State} (hf : ∀ u, (f u).calls = u.calls) :
    ((lineWrite n v s).finish f).calls = s.calls := by
  rcases lineWrite_cases n v s with ⟨_, h⟩ | ⟨_, h⟩ <;> rw [h]
  · exact hf (s.wrote n v)
  · rfl

/-- Of all instructions only ACCEPT takes a call (RENDER's text is its operand). -/
theorem exec_calls {i : Instr} {t : State} (ha : i ≠ .accept) (hr : ∀ x, i ≠ .render x)
    (h : exec i s = .next t) : t.calls = s.calls := by
  cases i with
  | accept => exact absurd rfl ha
  | render x => exact absurd rfl (hr x)
  | segWrite =>
    simp only [exec, execSegWrite, inPhase_eq_next] at h
    exact h.2 ▸ finish_calls fun u => afterSeg_calls
  | dpWrite =>
    simp only [exec, execDpWrite, inPhase_eq_next] at h
    exact h.2 ▸ finish_calls fun _ => rfl
  | digOn =>
    simp only [exec, execDigOn, inPhase_eq_next] at h
    exact h.2 ▸ finish_calls fun _ => rfl
  | digOff =>
    simp only [exec, execDigOff, inPhase_eq_next] at h
    exact h.2 ▸ finish_calls fun u => afterOff_calls
  | dwell =>
    simp only [exec, execDwell, inPhase_eq_next] at h
    obtain ⟨_, rfl⟩ := h
    split <;> rfl
  | _ =>
    simp only [exec] at h
    cases h
    rfl

/-- A presented word that is no request is neither ACCEPT nor RENDER. -/
theorem decode_op_not_request {n : BitVec 2} {x : List Char8} {i : Instr}
    (hd : decode (.op n x) = .ok i) (hn : n ≠ 2#2) : i ≠ .accept ∧ ∀ y, i ≠ .render y := by
  simp only [decode, decodeOp] at hd
  split at hd <;> simp at hd <;> subst hd
  · simp
  · simp
  · rename_i h2
    exact absurd (BitVec.eq_of_toNat_eq h2) hn

theorem decode_char_not_request {c : Char8} {i : Instr} (hd : decode (.char8 c) = .ok i) :
    i ≠ .accept ∧ ∀ y, i ≠ .render y := by
  simp only [decode, decodeChar] at hd
  split at hd
  · simp at hd
    subst hd
    simp
  · split at hd
    · rename_i g _
      simp at hd
      subst hd
      cases g <;> simp [Glyph.instr]
    · simp at hd

/-- A step leaves the calls as they are or, in `IDLE`, takes the oldest. -/
theorem step_calls {t : State} (h : step s = .next t) :
    t.calls = s.calls ∨ s.phase = .idle ∧ ∃ c, s.calls = c :: t.calls := by
  cases hr : s.resetIn with
  | true =>
    rw [step_reset hr] at h
    cases h
    exact .inl rfl
  | false =>
    cases hp : s.phase with
    | fault => rw [step_fault hr hp] at h; simp at h
    | seg => rw [step_seg hr hp] at h; exact .inl (exec_calls (by simp) (by simp) h)
    | dp => rw [step_dp hr hp] at h; exact .inl (exec_calls (by simp) (by simp) h)
    | on => rw [step_on hr hp] at h; exact .inl (exec_calls (by simp) (by simp) h)
    | dwell => rw [step_dwell hr hp] at h; exact .inl (exec_calls (by simp) (by simp) h)
    | off => rw [step_off hr hp] at h; exact .inl (exec_calls (by simp) (by simp) h)
    | idle =>
      cases hc : s.calls with
      | nil =>
        rw [step_wait hr hp hc] at h
        cases h
        exact .inl hc
      | cons c rest =>
        refine .inr ⟨rfl, c, ?_⟩
        cases c with
        | char c =>
          simp only [step, hr, fetch, hp, hc, Bool.false_eq_true, if_false] at h
          split at h
          · rename_i hd
            have hi := decode_char_not_request hd
            rw [exec_calls hi.1 hi.2 h]
          · simp at h
        | op n x =>
          by_cases hn : n = 2#2
          · subst hn
            rw [step_request hr hp hc, execAccept_request hp hc] at h
            cases h
            simp
          · simp only [step, hr, fetch, hp, hc, hn, Bool.false_eq_true, if_false] at h
            split at h
            · rename_i hd
              have hi := decode_op_not_request hd hn
              rw [exec_calls hi.1 hi.2 h]
            · simp at h

/-! ## Running several steps -/

@[simp] theorem run_zero (s : State) : run 0 s = .next s := rfl

theorem coreRun_succ (M : Host.Core) (k : Nat) {a b : M.State} (h : M.step a = .next b) :
    M.run (k + 1) a = M.run k b := by
  simp [Host.Core.run, h]

theorem step_of_coreRun_succ (M : Host.Core) (k : Nat) {a c : M.State} (h : M.run (k + 1) a = .next c) :
    ∃ b, M.step a = .next b ∧ M.run k b = .next c := by
  cases hs : M.step a with
  | next b => exact ⟨b, rfl, coreRun_succ M k hs ▸ h⟩
  | fault r => simp [Host.Core.run, hs] at h
  | refused r => simp [Host.Core.run, hs] at h

theorem run_succ {t : State} (k : Nat) (h : step s = .next t) : run (k + 1) s = run k t :=
  coreRun_succ Sys2Proof.core k h

/-- A run that answers began with a step that answers. -/
theorem step_of_run_succ {u : State} {k : Nat} (h : run (k + 1) s = .next u) :
    ∃ t, step s = .next t ∧ run k t = .next u :=
  step_of_coreRun_succ Sys2Proof.core k h

theorem run_add {t : State} (j k : Nat) (h : run j s = .next t) : run (j + k) s = run k t := by
  induction j generalizing s with
  | zero =>
    rw [run_zero] at h
    cases h
    simp
  | succ j ih =>
    obtain ⟨u, hu, h⟩ := step_of_run_succ h
    rw [Nat.add_right_comm, run_succ (j + k) hu]
    exact ih h

end Sys2Proof.Machine
end

