-- ==== Sys2Proof/Laws/Render.lean ====
section
/-! SUPPORT. RENDER's loop (`spec/42_strobe_fsm.md` R120) where no write fails: one write, the segment
writes of a slot, a slot. -/

namespace Sys2Proof.Machine

/-- What `k` successful line writes of a render leave as it was, and the `k` answers they use up. -/
structure AfterWrites (k : Nat) (s v : State) : Prop where
  cfg : v.cfg = s.cfg
  text : v.text = s.text
  tlen : v.tlen = s.tlen
  ch : v.ch = s.ch
  pat : v.pat = s.pat
  pt : v.pt = s.pt
  err : v.err = s.err
  calls : v.calls = s.calls
  ret : v.ret = s.ret
  resetIn : v.resetIn = s.resetIn
  ans : v.answers = s.answers.drop k
  draws : v.draws = s.draws + k
  scan : v.scan = s.scan

theorem AfterWrites.trans {j k : Nat} {a b c : State} (h : AfterWrites j a b) (g : AfterWrites k b c) :
    AfterWrites (j + k) a c :=
  ⟨g.1.trans h.1, g.2.trans h.2, g.3.trans h.3, g.4.trans h.4, g.5.trans h.5, g.6.trans h.6, g.7.trans h.7,
    g.8.trans h.8, g.9.trans h.9, g.10.trans h.10, by rw [g.ans, h.ans, List.drop_drop],
    by rw [g.draws, h.draws]; omega, g.scan.trans h.scan⟩

theorem noWriteFails_mono {j k : Nat} {s : State} (h : NoWriteFails (j + k) s) : NoWriteFails j s := by
  rcases h with h | ⟨h1, h2⟩
  · exact .inl h
  · refine .inr ⟨by omega, fun b hb => h2 b ?_⟩
    rw [List.take_add]; exact List.mem_append_left _ hb

theorem noWriteFails_after {j k : Nat} {s v : State} (h : NoWriteFails (j + k) s)
    (c : AfterWrites j s v) : NoWriteFails k v := by
  rcases h with h | ⟨h1, h2⟩
  · exact .inl (by rw [c.cfg]; exact h)
  · refine .inr ⟨by rw [c.ans, List.length_drop]; omega, fun b hb => h2 b ?_⟩
    rw [List.take_add]; rw [c.ans] at hb; exact List.mem_append_right _ hb

theorem writeFails_of_noWriteFails {s : State} (h : NoWriteFails 1 s) : s.writeFails = false := by
  rcases h with h | ⟨h1, h2⟩
  · exact writeFails_of_never h
  · cases ha : s.answers with
    | nil => simp [ha] at h1
    | cons b bs => rw [writeFails_of_head ha, h2 b (by simp [ha])]; simp

/-- A line write that does not fail. -/
theorem lineWrite_next {n : Fin 12} {l : Level} {s : State} (h : NoWriteFails 1 s) :
    ∃ v, lineWrite n l s = .ok v ∧ AfterWrites 1 s v ∧ v.trace = s.trace ++ [.w n l] ∧
      (∀ m, v.line m = if m = n then l else s.line m) ∧ v.dw = s.dw ∧ v.phase = s.phase := by
  refine ⟨s.wrote n l, lineWrite_ok _ _ (writeFails_of_noWriteFails h), ?_, rfl,
    State.wrote_line s n (v := l), rfl, rfl⟩
  constructor <;> simp

theorem renderSegs_cons (p : Pattern) (i : Fin 7) (rest : List (Fin 7)) (s : State) :
    renderSegs p (i :: rest) s =
      (lineWrite (segLine i) p[i.val] { s with sIx := i }).andThen (renderSegs p rest) := rfl

/-- The inner loop of R120 where no write fails: the lines of the list hold the pattern, in the order of
the list, and no other line changes. -/
theorem renderSegs_next {p : Pattern} (l : List (Fin 7)) :
    ∀ {s : State}, NoWriteFails l.length s →
      ∃ v, renderSegs p l s = .ok v ∧ AfterWrites l.length s v ∧
        v.trace = s.trace ++ l.map (fun i => .w (segLine i) p[i.val]) ∧
        (∀ i ∈ l, v.line (segLine i) = p[i.val]) ∧
        (∀ m, (∀ i ∈ l, m ≠ segLine i) → v.line m = s.line m) ∧ v.dw = s.dw ∧ v.phase = s.phase := by
  induction l with
  | nil => intro s _; exact ⟨s, rfl, by constructor <;> simp, by simp, by simp, by simp, rfl, rfl⟩
  | cons i rest ih =>
    intro s h
    rw [List.length_cons, Nat.add_comm] at h
    have h0 : NoWriteFails 1 ({ s with sIx := i } : State) := noWriteFails_mono h
    obtain ⟨v, e, c, t, l, dw, ph⟩ := lineWrite_next (n := segLine i) (l := p[i.val]) h0
    have c0 : AfterWrites 1 s v := ⟨c.1, c.2, c.3, c.4, c.5, c.6, c.7, c.8, c.9, c.10, c.11, c.12, c.13⟩
    obtain ⟨w, e2, c2, t2, l2, o2, dw2, ph2⟩ := ih (noWriteFails_after h c0)
    refine ⟨w, by rw [renderSegs_cons, e]; exact e2, ?_, by rw [t2, t]; simp, ?_, ?_, dw2.trans dw,
      ph2.trans ph⟩
    · have := c0.trans c2; rw [List.length_cons, Nat.add_comm]; exact this
    · intro j hj
      by_cases hr : j ∈ rest
      · exact l2 j hr
      · have hij : j = i := by simpa [hr] using hj
        subst hij
        rw [o2 _ (by intro k hk h; exact hr (by rw [segLine_injective h]; exact hk)), l]
        simp
    · intro m hm
      rw [o2 m (fun k hk => hm k (List.mem_cons_of_mem _ hk)), l]
      simp [hm i (by simp)]
      rfl

/-- The body of R120's outer loop where no write fails (R128, one digit). -/
theorem renderSlot_next {f : Frame} {d : Fin 4} {s : State} (h : NoWriteFails 10 s) :
    ∃ v, renderSlot f d s = .ok v ∧ AfterWrites 10 s v ∧ v.trace = s.trace ++ slotTrace s.cfg f d ∧
      (∀ i, v.seg i = (encodeGlyph s.cfg f.digits[d])[i.val]) ∧ v.dpl = Level.ofBool (!f.points[d]) ∧
      v.dig d = s.inactive ∧ (∀ e, e ≠ d → v.dig e = s.dig e) ∧ v.dw = 0 ∧ v.phase = s.phase := by
  let s0 : State := { s with dIx := d }
  obtain ⟨v1, e1, c1, t1, l1, o1, dw1, p1⟩ := renderSegs_next (p := encodeGlyph s.cfg f.digits[d])
    (List.finRange 7) (s := s0) (noWriteFails_mono (k := 3) h)
  have h1 := noWriteFails_after (j := 7) (k := 3) h (v := v1)
    ⟨c1.1, c1.2, c1.3, c1.4, c1.5, c1.6, c1.7, c1.8, c1.9, c1.10, c1.11, c1.12, c1.13⟩
  obtain ⟨v2, e2, c2, t2, l2, dw2, p2⟩ := lineWrite_next (n := dpLine)
    (l := Level.ofBool (!f.points[d])) (noWriteFails_mono (j := 1) (k := 2) h1)
  have h2 := noWriteFails_after (j := 1) (k := 2) h1 c2
  obtain ⟨v3, e3, c3, t3, l3, dw3, p3⟩ := lineWrite_next (n := digLine d) (l := v2.active)
    (noWriteFails_mono (j := 1) (k := 1) h2)
  have h3 := noWriteFails_after (j := 1) (k := 1) h2 c3
  have h4 : NoWriteFails 1 v3.waitDwell := h3
  obtain ⟨v4, e4, c4, t4, l4, dw4, p4⟩ := lineWrite_next (n := digLine d) (l := v3.inactive) h4
  have ch : AfterWrites 10 s v4 := by
    have := ((c1.trans c2).trans c3).trans (c := v4) (k := 1)
      ⟨c4.1, c4.2, c4.3, c4.4, c4.5, c4.6, c4.7, c4.8, c4.9, c4.10, c4.11, c4.12, c4.13⟩
    exact ⟨this.1, this.2, this.3, this.4, this.5, this.6, this.7, this.8, this.9, this.10, this.11,
      this.12, this.13⟩
  have a2 : v2.active = s.cfg.digActive := by simp only [State.active]; rw [c2.cfg, c1.cfg]
  have a3 : v3.inactive = ~~~s.cfg.digActive := by simp only [State.inactive]; rw [c3.cfg, c2.cfg, c1.cfg]
  have cc : v3.cfg = s.cfg := by rw [c3.cfg, c2.cfg, c1.cfg]
  have w3 : ∀ m, v3.waitDwell.line m = v3.line m := fun _ => rfl
  refine ⟨v4, ?_, ch, ?_, ?_, ?_, ?_, ?_, ?_, ?_⟩
  · unfold renderSlot
    rw [show renderSegs (encodeGlyph s.cfg f.digits[d]) (List.finRange 7) { s with dIx := d } = .ok v1 from e1]
    simp only [Flow.ok_andThen, e2, e3, e4]
  · rw [t4, a3]
    simp only [State.waitDwell]
    rw [t3, t2, t1, a2, cc]
    simp [slotTrace, s0]
  · intro i
    simp only [State.seg, l4, w3, l3, l2]
    simp [l1 i (List.mem_finRange i)]
  · simp only [State.dpl, l4, w3, l3, l2]
    simp
  · simp only [State.dig, l4]
    simp [State.inactive, cc]
  · intro e he
    have := o1 (digLine e) (by simp)
    simp only [State.dig, l4, w3, l3, l2, this]
    simp [he]
    rfl
  · rw [dw4]; rfl
  · rw [p4]; show v3.phase = _; rw [p3, p2, p1]

/-- The slots before digit `d` and a beginning of its own slot are a beginning of the whole render. -/
theorem slot_prefix_renderTrace (cfg : Config) (f : Frame) (d : Fin 4) {p : List Event}
    (h : p <+: slotTrace cfg f d) :
    ((List.finRange 4).take d.val).flatMap (slotTrace cfg f) ++ p <+: renderTrace cfg f := by
  have hd : ∀ d : Fin 4, (List.finRange 4).take d.val ++ [d] <+: List.finRange 4 := by decide
  obtain ⟨rest, hr⟩ := hd d
  refine ((List.prefix_append_right_inj _).mpr h).trans ⟨rest.flatMap (slotTrace cfg f), ?_⟩
  rw [renderTrace, ← hr]
  simp

end Sys2Proof.Machine
end

