-- ==== Sys2Proof/Tests/Slice0.lean ====
section
/-! SUPPORT. The model's own tests. The expected values are those of the spec: the words of
`spec/30_encoding.md`, the vectors of `spec/95_test_vectors.md`, the examples of the rules named. The
second half shows, for each statement with hypotheses, a state and operands that meet them. -/

namespace Sys2Proof.Tests

open Sys2Proof Sys2Proof.Machine

/-! ## Helpers -/

/-- A string from its character codes. -/
def cells (l : List Nat) : List Char8 := l.map (BitVec.ofNat 8)

/-- `"12.34"`, the source's example. -/
def text1234 : List Char8 := cells [0x31, 0x32, 0x2E, 0x33, 0x34]

/-- The frame of `"12.34"` (S2). -/
def frame1234 : Frame := ⟨#v[.d1, .d2, .d3, .d4], #v[false, true, false, false]⟩

/-- `p` holds of the next state, and there is one. -/
def onNext (o : Host.Outcome State Fault Refusal) (p : State → Bool) : Bool :=
  match o with
  | .next t => p t
  | .fault _ => false
  | .refused _ => false

/-- The outcome is the fault `notEnabled`. -/
def notEnabled (o : Host.Outcome State Fault Refusal) : Bool :=
  match o with
  | .next _ => false
  | .fault r => r == .notEnabled
  | .refused _ => false

/-- The outcome is the refusal `r`. -/
def refuses (o : Host.Outcome State Fault Refusal) (r : Refusal) : Bool :=
  match o with
  | .next _ => false
  | .fault _ => false
  | .refused q => q == r

/-- Reset, with the collaborator's next answers and the caller's calls given. -/
def start (bs : List Bool) (cs : List Call) : State := { State.reset with answers := bs, calls := cs }

/-- The slot of digit 1 of `render("12.34")`: all lines hold that slot's levels, the digit's own line
holds `v`; the next write does what `b` says. -/
def slot (p : Phase) (i : Fin 7) (n : Nat) (v : Level) (b : Bool) : State :=
  { State.reset with
    text := text1234 ++ cells [0, 0, 0]
    tlen := 5
    ch := #v[0x31#8, 0x32#8, 0x33#8, 0x34#8]
    pat := #v[#v[1, 0, 0, 1, 1, 1, 1, 1], #v[0, 0, 1, 0, 0, 1, 0, 1], #v[0, 0, 0, 0, 1, 1, 0, 1],
      #v[1, 0, 0, 1, 1, 0, 0, 1]]
    pt := #v[false, true, false, false]
    phase := p
    dIx := 1
    sIx := i
    dw := n
    lines := #v[0, 0, 1, 0, 0, 1, 0, 0, 0, v, 0, 0]
    answers := [b] }

/-! ## Decoding: the words of R60, R66 and R67, bit by bit -/

theorem test_decode_char8 :
    decode (.char8 0b00100000#8) = .ok .space ∧ decode (.char8 0b00110000#8) = .ok .digit0 ∧
    decode (.char8 0b00110001#8) = .ok .digit1 ∧ decode (.char8 0b00110010#8) = .ok .digit2 ∧
    decode (.char8 0b00110011#8) = .ok .digit3 ∧ decode (.char8 0b00110100#8) = .ok .digit4 ∧
    decode (.char8 0b00110101#8) = .ok .digit5 ∧ decode (.char8 0b00110110#8) = .ok .digit6 ∧
    decode (.char8 0b00110111#8) = .ok .digit7 ∧ decode (.char8 0b00111000#8) = .ok .digit8 ∧
    decode (.char8 0b00111001#8) = .ok .digit9 ∧ decode (.char8 0b01000101#8) = .ok .letterE ∧
    decode (.char8 0b01110010#8) = .ok .letterR ∧ decode (.char8 0b00101110#8) = .ok .point := by
  refine ⟨?_, ?_, ?_, ?_, ?_, ?_, ?_, ?_, ?_, ?_, ?_, ?_, ?_, ?_⟩ <;> rfl

theorem test_decode_op :
    decode (.op 0b00#2 [0x31#8]) = .ok (.encode 0x31#8) ∧
    decode (.op 0b01#2 text1234) = .ok (.decodeFrame text1234) ∧
    decode (.op 0b10#2 text1234) = .ok (.render text1234) := ⟨rfl, rfl, rfl⟩

theorem test_decode_phase3 :
    decode (.phase3 0b000#3) = .ok .accept ∧ decode (.phase3 0b001#3) = .ok .segWrite ∧
    decode (.phase3 0b010#3) = .ok .dpWrite ∧ decode (.phase3 0b011#3) = .ok .digOn ∧
    decode (.phase3 0b100#3) = .ok .dwell ∧ decode (.phase3 0b101#3) = .ok .digOff := by
  refine ⟨?_, ?_, ?_, ?_, ?_, ?_⟩ <;> rfl

/-- R61, R68: exact and case-sensitive; the forms that are no instruction. -/
theorem test_decode_refuses :
    decode (.char8 0x3A#8) = .error (.illegalCharacter 0x3A#8) ∧
    decode (.char8 0x65#8) = .error (.illegalCharacter 0x65#8) ∧
    decode (.char8 0x52#8) = .error (.illegalCharacter 0x52#8) ∧
    decode (.op 3#2 []) = .error .noSuchOperation ∧ decode (.op 0#2 []) = .error .operandCount ∧
    decode (.phase3 6#3) = .error .reservedPhase ∧ decode (.phase3 7#3) = .error .noStepInFault := by
  refine ⟨?_, ?_, ?_, ?_, ?_, ?_, ?_⟩ <;> rfl

/-- The table's match values (R70), by their width (log 14). -/
theorem test_decodeTableWord :
    decodeTableWord 8 0x20 = some .space ∧ decodeTableWord 8 0x72 = some .letterR ∧
    decodeTableWord 8 0x2E = some .point ∧ decodeTableWord 2 1 = some (.decodeFrame (cells [0, 0, 0, 0, 0, 0, 0, 0])) ∧
    decodeTableWord 3 4 = some .dwell ∧ decodeTableWord 8 5 = some .digOff ∧
    decodeTableWord 8 0x41 = none ∧ decodeTableWord 3 6 = none := by decide

/-! ## Well-formedness: one ill-formed term for each check -/

theorem test_wellFormed :
    WellFormed (.encode 0x72#8) = true ∧ WellFormed (.decodeFrame text1234) = true ∧
    WellFormed (.render (cells [0x31, 0x2E, 0x32, 0x2E, 0x33, 0x2E, 0x34, 0x2E])) = true := by decide

/-- ENCODE of the point marker and of `'R'`; a count, an alphabet and a placement that fail (2.3). -/
theorem test_illFormed :
    WellFormed (.encode 0x2E#8) = false ∧ WellFormed (.encode 0x52#8) = false ∧
    WellFormed (.decodeFrame (cells [0x31, 0x32, 0x33])) = false ∧
    WellFormed (.decodeFrame (cells [0x31, 0x32, 0x3A, 0x33, 0x34])) = false ∧
    WellFormed (.render (cells [0x2E, 0x31, 0x32, 0x33, 0x34])) = false ∧
    WellFormed (.render (cells [0x31, 0x32, 0x33, 0x34, 0x35])) = false ∧
    WellFormed (.render (cells [0x31, 0x32, 0x33, 0x34, 0x2E, 0x2E])) = false := by decide

/-! ## The character rows -/

/-- Each row opens a slot with the pattern of vector 2.1, as packed integer. -/
theorem test_glyph_rows :
    ∀ p ∈ [(Instr.space, 0xFF), (.digit0, 0xC0), (.digit1, 0xF9), (.digit2, 0xA4), (.digit3, 0xB0),
        (.digit4, 0x99), (.digit5, 0x92), (.digit6, 0x82), (.digit7, 0xF8), (.digit8, 0x80),
        (.digit9, 0x90), (.letterE, 0x86), (.letterR, 0xAF)],
      onNext (exec p.1 State.reset) (fun t => t.scan.slots.map (fun x => packed x.pat) == [p.2]) = true := by
  decide

/-- R105: the point goes to the glyph before it; R104: a point after a point is misplaced. -/
theorem test_point_row :
    onNext (execAll [.digit1, .digit2, .point] State.reset)
      (fun t => t.scan.slots.map Slot.point == [false, true] && t.scan.placed) = true ∧
    onNext (execAll [.digit1, .point, .point] State.reset) (fun t => !t.scan.placed) = true := by decide

/-- R106 on `"12.34"`, its last `false` still to come (R108). -/
theorem test_scan_of_rows :
    onNext (execAll [.digit1, .digit2, .point, .digit3, .digit4] State.reset)
      (fun t => t.scan.res == [false, true, false] && scanFrame t.scan == some frame1234) = true := by
  decide

/-! ## ENCODE and DECODE_FRAME (vectors 2.1 to 2.3) -/

theorem test_encode :
    onNext (exec (.encode 0x72#8) State.reset) (fun t => t.ret == .pattern #v[1, 1, 1, 1, 0, 1, 0, 1]) = true ∧
    onNext (exec (.encode 0x2E#8) State.reset) (fun t => t.ret == .encodeError) = true := by decide

/-- `"02.05."` and `"Err.0"`. -/
theorem test_decodeFrame_accepts :
    decodeFrame (cells [0x30, 0x32, 0x2E, 0x30, 0x35, 0x2E]) =
      some ⟨#v[.d0, .d2, .d0, .d5], #v[false, true, false, true]⟩ ∧
    decodeFrame (cells [0x45, 0x72, 0x72, 0x2E, 0x30]) =
      some ⟨#v[.letterE, .letterR, .letterR, .d0], #v[false, false, true, false]⟩ := by decide

/-- Vector 2.3, one or more for each check: the empty string, `"12.3"`, `"...."`, `"12345"`,
`"1e.00"`, `"ERR.0"`, `".1234"`, `"1..234"`, `".1.2.3.4."`. -/
theorem test_decodeFrame_refuses :
    ∀ x ∈ [cells [], cells [0x31, 0x32, 0x2E, 0x33], cells [0x2E, 0x2E, 0x2E, 0x2E],
        cells [0x31, 0x32, 0x33, 0x34, 0x35], cells [0x31, 0x65, 0x2E, 0x30, 0x30],
        cells [0x45, 0x52, 0x52, 0x2E, 0x30], cells [0x2E, 0x31, 0x32, 0x33, 0x34],
        cells [0x31, 0x2E, 0x2E, 0x32, 0x33, 0x34],
        cells [0x2E, 0x31, 0x2E, 0x32, 0x2E, 0x33, 0x2E, 0x34, 0x2E]],
      onNext (exec (.decodeFrame x) State.reset) (fun t => t.ret == .malformed) = true := by decide

/-! ## ACCEPT -/

/-- The example of R122, from reset. -/
theorem test_accept :
    onNext (step (start [] [.op 2#2 text1234])) (fun t =>
      t.ch == #v[0x31#8, 0x32#8, 0x33#8, 0x34#8] && t.pt == #v[false, true, false, false] &&
      t.phase == .seg && t.dIx == 0 && t.sIx == 0 && t.err == .none && t.trace == [] &&
      t.tlen == 5 && t.text.take 5 == text1234 && t.calls == []) = true := by decide

/-- Vector 2.6 and P2: `"12:34"` is latched and refused; the frame latch stays. -/
theorem test_accept_malformed :
    onNext (step { slot .idle 0 0 0 false with
        calls := [.op 2#2 (cells [0x31, 0x32, 0x3A, 0x33, 0x34])], dIx := 0 }) (fun t =>
      t.err == .malformedDisplayString && t.phase == .idle && t.trace == [] && t.tlen == 5 &&
      t.text.take 5 == cells [0x31, 0x32, 0x3A, 0x33, 0x34] &&
      t.ch == #v[0x31#8, 0x32#8, 0x33#8, 0x34#8]) = true := by decide

/-! ## The strobe steps (vectors 2.4 and 2.6) -/

/-- Digit 1, segment 2 of `'2'`: level 1, not inverted; segment 6 ends the segment writes. -/
theorem test_segWrite :
    onNext (step (slot .seg 2 0 0 false)) (fun t => t.trace == [.w 2 1] && t.sIx == 3 && t.phase == .seg) = true ∧
    onNext (step (slot .seg 6 0 0 false)) (fun t => t.trace == [.w 6 0] && t.sIx == 6 && t.phase == .dp) = true := by
  decide

/-- The first write fails. -/
theorem test_segWrite_fails :
    onNext (step { slot .seg 0 0 0 true with dIx := 0 }) (fun t =>
      t.trace == [.wf 0 1] && t.phase == .fault && t.dIx == 0 && t.sIx == 0 &&
      t.err == .hardwareIOFailure && t.dig 0 == 0) = true := by decide

/-- Slot 1 has a point and writes 0; slot 0 has none and writes 1. -/
theorem test_dpWrite :
    onNext (step (slot .dp 6 0 0 false)) (fun t => t.trace == [.w 7 0] && t.phase == .on) = true ∧
    onNext (step { slot .dp 6 0 0 false with dIx := 0 }) (fun t => t.trace == [.w 7 1] && t.dpl == 1) = true := by
  decide

/-- With `DWELL_TICKS = 2` and `DIG_ACTIVE = 0`. -/
theorem test_digOn :
    onNext (step { slot .on 6 0 1 false with cfg := { defaultConfig with dwellTicks := 2, digActive := 0 } })
      (fun t => t.trace == [.w 9 0] && t.dw == 2 && t.phase == .dwell && t.dig 1 == 0) = true := by decide

/-- A failed DIG_ON does not load `DW`. -/
theorem test_digOn_fails :
    onNext (step (slot .on 6 0 0 true)) (fun t =>
      t.trace == [.wf 9 1] && t.dw == 0 && t.phase == .fault && t.sIx == 6) = true := by decide

theorem test_dwell :
    onNext (step (slot .dwell 6 2 1 false)) (fun t => t.trace == [.tick] && t.dw == 1 && t.phase == .dwell) = true ∧
    onNext (step (slot .dwell 6 1 1 false)) (fun t => t.trace == [.tick] && t.dw == 0 && t.phase == .off) = true := by
  decide

/-- After digit 1 comes digit 2; after digit 3 the render is complete. -/
theorem test_digOff :
    onNext (step (slot .off 6 0 1 false)) (fun t =>
      t.trace == [.w 9 0] && t.dIx == 2 && t.sIx == 0 && t.phase == .seg) = true ∧
    onNext (step { slot .off 6 0 0 false with dIx := 3 }) (fun t =>
      t.trace == [.w 11 0] && t.dIx == 0 && t.sIx == 0 && t.phase == .idle) = true := by decide

/-- R121: a step kind outside its phase has no step. -/
theorem test_notEnabled :
    notEnabled (exec .segWrite State.reset) = true ∧ notEnabled (exec .dpWrite State.reset) = true ∧
    notEnabled (exec .digOn State.reset) = true ∧ notEnabled (exec .dwell State.reset) = true ∧
    notEnabled (exec .digOff State.reset) = true ∧ notEnabled (exec .accept State.reset) = true ∧
    notEnabled (exec (.render text1234) (slot .dwell 6 1 1 false)) = true := by decide

/-! ## RENDER (vector 2.5) -/

/-- `render("12.34")`: 44 events, the second slot's among them; the end state of P1. -/
theorem test_render :
    onNext (exec (.render text1234) (start (List.replicate 40 false) [])) (fun t =>
      t.trace.length == 44 &&
      (t.trace.drop 11).take 11 == [.w 0 0, .w 1 0, .w 2 1, .w 3 0, .w 4 0, .w 5 1, .w 6 0, .w 7 0,
        .w 9 1, .tick, .w 9 0] &&
      t.lines == #v[1, 0, 0, 1, 1, 0, 0, 1, 0, 0, 0, 0] && t.phase == .idle && t.err == .none) = true := by
  decide

/-- The DIG_OFF of slot 0 fails, on write 10 (2.6). -/
theorem test_render_fails :
    onNext (exec (.render text1234) (start (List.replicate 9 false ++ [true]) [])) (fun t =>
      t.trace.drop 8 == [.w 8 1, .tick, .wf 8 0] && t.phase == .fault && t.dIx == 0 && t.sIx == 6 &&
      t.dw == 0 && t.err == .hardwareIOFailure) = true := by decide

/-! ## Fetch, reset and stops -/

/-- Each table word that the first byte tells apart runs as the first instruction (log 14, log 15). -/
theorem test_withFetchWord_chars :
    step (State.reset.withFetchWord 8 0x45) = exec .letterE State.reset ∧
    step (State.reset.withFetchWord 8 0x2E) = exec .point State.reset := ⟨rfl, rfl⟩

theorem test_withFetchWord_steps :
    step (State.reset.withFetchWord 8 1) = exec .segWrite (State.reset.withFetchWord 8 1) ∧
    step (State.reset.withFetchWord 8 4) = exec .dwell (State.reset.withFetchWord 8 4) ∧
    onNext (step (State.reset.withFetchWord 8 0)) (fun t => t.err == .malformedDisplayString) = true := by
  refine ⟨rfl, rfl, ?_⟩
  decide

/-- A word that is no instruction, presented, is refused by name (R68). -/
theorem test_step_refuses :
    refuses (step (start [] [.char 0x3A#8])) (.illegalCharacter 0x3A#8) = true ∧
    refuses (step (start [] [.op 3#2 []])) .noSuchOperation = true ∧
    refuses (step (start [] [.op 0#2 []])) .operandCount = true := by decide

/-- R31, R170: reset with `DIG_ACTIVE = 0` makes the digit lines 1, from `FAULT` too. -/
theorem test_reset :
    onNext (step { slot .fault 3 0 0 false with
        resetIn := true, err := .hardwareIOFailure, trace := [.tick],
        cfg := { defaultConfig with digActive := 0 } }) (fun t =>
      t.phase == .idle && t.err == .none && t.trace == [] && t.dig 1 == 1 && t.dIx == 0 && t.sIx == 0) = true := by
  decide

/-! ## Witnesses: states and operands that meet the hypotheses of each statement -/

/-- The slots' states meet the invariant. -/
theorem test_invariant_dwell : Invariant (slot .dwell 6 1 1 false) := by
  constructor
  case frame => intro _; exact ⟨frame1234, by decide, by decide, by decide, by decide⟩
  all_goals decide

theorem test_invariant_off : Invariant (slot .off 6 0 1 false) := by
  constructor
  case frame => intro _; exact ⟨frame1234, by decide, by decide, by decide, by decide⟩
  all_goals decide

theorem test_invariant_seg : Invariant (slot .seg 2 0 0 false) := by
  constructor
  case frame => intro _; exact ⟨frame1234, by decide, by decide, by decide, by decide⟩
  all_goals decide

theorem test_invariant_dp : Invariant (slot .dp 6 0 0 false) := by
  constructor
  case frame => intro _; exact ⟨frame1234, by decide, by decide, by decide, by decide⟩
  all_goals decide

theorem test_invariant_on : Invariant (slot .on 6 0 0 false) := by
  constructor
  case frame => intro _; exact ⟨frame1234, by decide, by decide, by decide, by decide⟩
  all_goals decide

/-- A `FAULT` state after a failed DIG_OFF: the digit may stay lit (R177). -/
theorem test_invariant_fault : Invariant { slot .fault 6 0 1 false with err := .hardwareIOFailure } := by
  constructor
  case frame => intro h; exact absurd h (by decide)
  all_goals decide

theorem test_isReset : IsReset State.reset := by constructor <;> decide

theorem test_runStart : RunStart State.reset := ⟨test_isReset, rfl, rfl⟩

/-- `IsReset` admits other values of the registers that R31 leaves unspecified. -/
theorem test_isReset_other : IsReset { slot .idle 0 0 0 false with dIx := 0 } := by constructor <;> decide

theorem test_invariant_reset : Invariant State.reset := by
  constructor
  case frame => intro h; exact absurd h (by decide)
  all_goals decide

theorem test_witness_StepRunsTheDecodedInstruction :
    ((slot .off 6 0 1 false).resetIn = false ∧ (slot .off 6 0 1 false).busy = true ∧
      decode (.phase3 (slot .off 6 0 1 false).phase.code) = .ok .digOff) ∧
    ((start [] [.op 2#2 text1234]).resetIn = false ∧ (start [] [.op 2#2 text1234]).phase = .idle ∧
      (start [] [.op 2#2 text1234]).calls = [.op 2#2 text1234]) ∧
    ((start [] [.op 1#2 text1234]).calls = [.op 1#2 text1234] ∧ (1#2 : BitVec 2) ≠ 2#2 ∧
      decode (.op 1#2 text1234) = .ok (.decodeFrame text1234)) ∧
    ((start [] [.char 0x35#8]).calls = [.char 0x35#8] ∧ decode (.char8 0x35#8) = .ok .digit5) :=
  ⟨⟨rfl, rfl, rfl⟩, ⟨rfl, rfl, rfl⟩, ⟨rfl, by decide, rfl⟩, ⟨rfl, rfl⟩⟩

theorem test_witness_StepWithNothingToRun :
    (State.reset.resetIn = false ∧ State.reset.phase = .idle ∧ State.reset.calls = []) ∧
    ((slot .fault 6 0 1 false).resetIn = false ∧ (slot .fault 6 0 1 false).phase = .fault) ∧
    ((start [] [.char 0x3A#8]).calls = [.char 0x3A#8] ∧ isGlyph 0x3A#8 = false ∧ (0x3A#8 : Char8) ≠ pointCode) ∧
    (start [] [.op 3#2 []]).calls = [.op 3#2 []] ∧
    ((start [] [.op 0#2 []]).calls = [.op 0#2 []] ∧ ([] : List Char8).length ≠ 1 ∧
      (start [] [.op 0#2 text1234]).calls = [.op 0#2 text1234] ∧ text1234.length ≠ 1) := by decide

theorem test_witness_OtherWordsAreRefused : ([] : List Char8).length ≠ 1 ∧ text1234.length ≠ 1 := by decide

theorem test_witness_ResetFromEveryState :
    { slot .fault 6 0 1 false with resetIn := true }.resetIn = true ∧
    { slot .fault 6 0 1 false with resetIn := true }.phase = .fault ∧
    onNext (step { slot .fault 6 0 1 false with resetIn := true }) (fun _ => true) = true := by decide

/-- Both clauses of SCAN's counter: `cnt = 1` and not. -/
theorem test_witness_GlyphRowsOpenASlot :
    State.reset.scan.cnt ≠ 1 ∧ onNext (exec .digit1 State.reset) (fun t => t.scan.cnt == 1) = true := by decide

theorem test_witness_PointRowMarksTheGlyphBefore :
    State.reset.scan.afterGlyph = false ∧
    onNext (exec .digit1 State.reset) (fun t => t.scan.afterGlyph && t.scan.slots.length == 1) = true := by
  decide

theorem test_witness_CharacterRowsAreTheDecode :
    text1234.mapM decodeChar = .ok [.digit1, .digit2, .point, .digit3, .digit4] ∧
    State.reset.scan = Scan.start := ⟨rfl, rfl⟩

theorem test_witness_EncodeReturnsTheTablesPattern :
    (0x20#8 : Char8) = Glyph.space.code ∧ (0x2E#8 : Char8) ≠ Glyph.space.code ∧ isGlyph 0x2E#8 = false := by
  decide

theorem test_witness_DefaultTableValues : litMask (encodeGlyph defaultConfig .space) = 0 := by decide

theorem test_witness_DecodeFrameReturnsDigitsAndPoints :
    (alphabetOk text1234 = true ∧ countOk text1234 = true ∧ placementOk text1234 = true) ∧
    alphabetOk (cells [0x31, 0x32, 0x3A, 0x33, 0x34]) = false ∧ countOk (cells [0x31, 0x32, 0x33]) = false ∧
    placementOk (cells [0x2E, 0x31, 0x32, 0x33, 0x34]) = false := by decide

/-- For PointFlagIsTheMarkerAfterTheGlyph, ScanAgreesWithPoints and DecodeAndSpellAgree: the shortest and
the longest string. -/
theorem test_witness_decoded :
    decodeFrame (cells [0x31, 0x32, 0x33, 0x34]) =
      some ⟨#v[.d1, .d2, .d3, .d4], #v[false, false, false, false]⟩ ∧
    decodeFrame (cells [0x31, 0x2E, 0x32, 0x2E, 0x33, 0x2E, 0x34, 0x2E]) =
      some ⟨#v[.d1, .d2, .d3, .d4], #v[true, true, true, true]⟩ := by decide

theorem test_witness_ChecksAreTheGrammar : isDisplayString text1234 = true := by decide

/-- One text of each shape of R135: `"0941"`, `"09.41"`, `"02.05."` and `"Err.0"`. -/
theorem test_witness_CallerTextsAreWellFormed :
    CallerText (cells [0x30, 0x39, 0x34, 0x31])
      ⟨#v[.d0, .d9, .d4, .d1], #v[false, false, false, false]⟩ ∧
    CallerText (cells [0x30, 0x39, 0x2E, 0x34, 0x31])
      ⟨#v[.d0, .d9, .d4, .d1], #v[false, true, false, false]⟩ ∧
    CallerText (cells [0x30, 0x32, 0x2E, 0x30, 0x35, 0x2E])
      ⟨#v[.d0, .d2, .d0, .d5], #v[false, true, false, true]⟩ ∧
    CallerText (cells [0x45, 0x72, 0x72, 0x2E, 0x30])
      ⟨#v[.letterE, .letterR, .letterR, .d0], #v[false, false, true, false]⟩ :=
  ⟨.plain 0 9 4 1, .point 0 9 4 1, .points 0 2 0 5, .overflow⟩

/-- The latch's boundary: a text of exactly `TEXT_MAX` characters is latched, a longer one is not. -/
theorem test_witness_AcceptLatchesOrRefuses :
    ((start [] [.op 2#2 text1234]).phase = .idle ∧ decodeFrame text1234 = some frame1234) ∧
    decodeFrame (cells [0x31, 0x32, 0x33]) = none ∧ (slot .seg 0 0 0 false).phase ≠ .idle ∧
    (start [] []).calls = [] ∧
    onNext (step (start [] [.op 2#2 (cells [0x31, 0x2E, 0x32, 0x2E, 0x33, 0x2E, 0x34, 0x2E])]))
      (fun t => t.tlen == 8) = true ∧
    onNext (step (start [] [.op 2#2 (cells [0x31, 0x32, 0x33, 0x34, 0x35, 0x36, 0x37, 0x38, 0x39])]))
      (fun t => t.tlen == 0 && t.err == .malformedDisplayString) = true := by decide

theorem test_witness_MalformedRequestIsRefusedAndForgotten :
    (start [] [.op 2#2 (cells [0x31])]).resetIn = false ∧
    (start [] [.op 2#2 (cells [0x31])]).phase = .idle ∧
    decodeFrame (cells [0x31]) = none ∧ decodeFrame text1234 = some frame1234 := by decide

/-- Its clause on the display: a state that meets the invariant, with a malformed request presented. -/
theorem test_witness_MalformedRequest_invariant :
    Invariant { State.reset with calls := [.op 2#2 (cells [0x31])] } := by
  constructor
  case frame => intro h; exact absurd h (by decide)
  all_goals decide

/-- DigOnActivatesTheDigit's clause on what the digit shows. -/
theorem test_witness_DigOn_invariant :
    Invariant (slot .on 6 0 0 false) ∧ (slot .on 6 0 0 false).resetIn = false ∧
    1 ≤ (slot .on 6 0 0 false).cfg.dwellTicks := ⟨test_invariant_on, rfl, by decide⟩

/-- For the four writing steps: both answers, and both ends of each counter. -/
theorem test_witness_writes :
    ((slot .seg 0 0 0 false).phase = .seg ∧ (slot .seg 0 0 0 false).writeFails = false ∧
      (slot .seg 5 0 0 false).sIx.val < 6 ∧ (slot .seg 6 0 0 false).sIx.val = 6) ∧
    ((slot .dp 6 0 0 false).phase = .dp ∧ (slot .dp 6 0 0 false).writeFails = false) ∧
    ((slot .on 6 0 0 false).phase = .on ∧ (slot .on 6 0 0 false).writeFails = false) ∧
    ((slot .off 6 0 1 false).phase = .off ∧ (slot .off 6 0 1 false).writeFails = false ∧
      (slot .off 6 0 1 false).dIx.val < 3 ∧ { slot .off 6 0 0 false with dIx := 3 }.dIx.val = 3) := by decide

theorem test_witness_failedWrites :
    (slot .seg 0 0 0 true).writeFails = true ∧ (slot .dp 6 0 0 true).writeFails = true ∧
    (slot .on 6 0 0 true).writeFails = true ∧ (slot .off 6 0 1 true).writeFails = true ∧
    (stepPhase .segWrite = some (slot .seg 0 0 0 true).phase ∧
      stepWrite .segWrite (slot .seg 0 0 0 true) = some (0, 0)) ∧
    (stepPhase .dpWrite = some (slot .dp 6 0 0 true).phase ∧
      stepWrite .dpWrite (slot .dp 6 0 0 true) = some (7, 0)) ∧
    (stepPhase .digOn = some (slot .on 6 0 0 true).phase ∧
      stepWrite .digOn (slot .on 6 0 0 true) = some (9, 1)) ∧
    (stepPhase .digOff = some (slot .off 6 0 1 true).phase ∧
      stepWrite .digOff (slot .off 6 0 1 true) = some (9, 0)) := by decide

/-- `DW` at 1 and above. -/
theorem test_witness_DwellTicksAndCounts :
    (slot .dwell 6 2 1 false).phase = .dwell ∧ (slot .dwell 6 2 1 false).dw > 1 ∧
    (slot .dwell 6 1 1 false).dw ≤ 1 ∧ (slot .dwell 6 1 1 false).dw = 0 + 1 ∧
    (slot .dwell 6 1 1 false).resetIn = false ∧ (slot .on 6 0 0 false).phase ≠ .dwell := by decide

theorem test_witness_AnswersDecideTheWrites :
    ((start [true] []).answers = [true] ∧ (start [true] []).cfg.ioMayFail = true) ∧
    (({ slot .fault 6 0 1 false with cfg := { defaultConfig with ioMayFail := false } }).phase = .fault ∧
      onNext (exec .point { slot .fault 6 0 1 false with cfg := { defaultConfig with ioMayFail := false } })
        (fun t => t.phase == .fault) = true) := by decide

/-- RenderPerformsTheLoop, RenderStepByStep, StepsImplementRender: 40 answers, or no failing writes. -/
theorem test_witness_render :
    State.reset.cfg.Admissible ∧ (start (List.replicate 40 false) [.op 2#2 text1234]).phase = .idle ∧
    (start (List.replicate 40 false) [.op 2#2 text1234]).resetIn = false ∧
    decodeFrame text1234 = some frame1234 ∧
    NoWriteFails 40 (start (List.replicate 40 false) [.op 2#2 text1234]) ∧
    NoWriteFails 40 { State.reset with cfg := { defaultConfig with ioMayFail := false } } :=
  ⟨by decide, rfl, rfl, by decide, .inr (by decide), .inl rfl⟩

theorem test_witness_RenderRefusals :
    State.reset.phase = .idle ∧ decodeFrame (cells [0x31, 0x32, 0x33]) = none ∧
    (slot .dwell 6 1 1 false).phase ≠ .idle := by decide

theorem test_witness_RenderEndsInBoundedSteps :
    Invariant (slot .dwell 6 1 1 false) ∧ (slot .dwell 6 1 1 false).busy = true ∧
    (slot .dwell 6 1 1 false).resetIn = false := ⟨test_invariant_dwell, rfl, rfl⟩

theorem test_witness_StepKeepsTheInvariant :
    Invariant (slot .dwell 6 1 1 false) ∧
    onNext (step (slot .dwell 6 1 1 false)) (fun t => t.phase == .off) = true :=
  ⟨test_invariant_dwell, by decide⟩

theorem test_witness_ResetMeetsTheInvariant : IsReset State.reset ∧ defaultConfig.Admissible :=
  ⟨test_isReset, by decide⟩

theorem test_witness_ReachableStatesMeetTheInvariant :
    Reachable State.reset ∧ Reachable { State.reset with resetIn := true } ∧
    Reachable { State.reset with calls := [.op 2#2 text1234] } :=
  ⟨.reset test_runStart, .env (.reset test_runStart) .askReset,
    .env (.reset test_runStart) (.present 2#2 text1234 _ rfl rfl rfl)⟩

/-- A segment write and a point write, from states that meet the invariant. -/
theorem test_witness_SegmentLinesChangeUnderBlanking :
    Invariant (slot .seg 2 0 0 false) ∧ Invariant (slot .dp 6 0 0 false) ∧
    onNext (step (slot .seg 2 0 0 false)) (fun t => t.trace == [] ++ [.w 2 1]) = true ∧
    onNext (step (slot .dp 6 0 0 false)) (fun t => t.trace == [] ++ [.w 7 0]) = true :=
  ⟨test_invariant_seg, test_invariant_dp, by decide, by decide⟩

theorem test_witness_OnlyTheCurrentDigitIsVisible :
    Invariant (slot .dwell 6 1 1 false) ∧ Invariant (slot .off 6 0 1 false) ∧ Invariant State.reset ∧
    (slot .dwell 6 1 1 false).visible 1 =
      some ⟨#v[true, true, false, true, true, false, true], true⟩ ∧
    (slot .dwell 6 1 1 false).visible 0 = none :=
  ⟨test_invariant_dwell, test_invariant_off, test_invariant_reset, by decide, by decide⟩

/-- Each outcome of a step: none, a tick, a write, a failed write. -/
theorem test_witness_OneLineWritePerStep :
    onNext (step State.reset) (fun t => t.trace == []) = true ∧
    onNext (step (slot .dwell 6 1 1 false)) (fun t => t.trace == [.tick]) = true ∧
    onNext (step (slot .off 6 0 1 false)) (fun t => t.trace == [.w 9 0]) = true ∧
    onNext (step (slot .off 6 0 1 true)) (fun t => t.trace == [.wf 9 0]) = true := by decide

theorem test_witness_ErrReportsAndDecidesNothing :
    onNext (exec .digOff (slot .off 6 0 1 true)) (fun t => t.err != .none) = true ∧
    onNext (exec .accept (start [] [.op 2#2 []])) (fun t => t.err != .none) = true ∧
    onNext (exec (.render []) State.reset) (fun t => t.err != .none) = true ∧
    Invariant { slot .fault 6 0 1 false with err := .hardwareIOFailure } :=
  ⟨by decide, by decide, by decide, test_invariant_fault⟩

theorem test_witness_PendingCallsDoNotReachARender :
    (slot .on 6 0 0 false).busy = true ∧ (slot .on 6 0 0 false).resetIn = false ∧
    onNext (step { slot .on 6 0 0 false with calls := [.op 2#2 text1234] })
      (fun t => t.calls == [.op 2#2 text1234]) = true := by decide

/-- A step of a render, a waiting step and a DECODE_FRAME call, then an ACCEPT of a malformed text and of
one longer than `TEXT_MAX`. -/
theorem test_witness_LatchesChangeOnlyAtAccept :
    ((slot .dwell 6 1 1 false).resetIn = false ∧ (slot .dwell 6 1 1 false).phase ≠ .idle ∧
      onNext (step (slot .dwell 6 1 1 false)) (fun _ => true) = true) ∧
    (State.reset.calls = [] ∧ onNext (step State.reset) (fun _ => true) = true) ∧
    ((start [] [.op 1#2 text1234]).calls.head? = some (.op 1#2 text1234) ∧
      onNext (step (start [] [.op 1#2 text1234])) (fun t => t.ret == .frame frame1234) = true) ∧
    (decodeFrame (cells [0x31]) = none ∧
      onNext (step (start [] [.op 2#2 (cells [0x31])])) (fun _ => true) = true) ∧
    (start [] []).cfg.textMax < (cells [0x31, 0x32, 0x33, 0x34, 0x35, 0x36, 0x37, 0x38, 0x39]).length ∧
    onNext (step (start [] [.op 2#2 (cells [0x31, 0x32, 0x33, 0x34, 0x35, 0x36, 0x37, 0x38, 0x39])]))
      (fun _ => true) = true := by decide

/-- A frame latch whose elements 7 are all 0 differs from the one in `slot` in those alone. -/
theorem test_witness_PatternElementSevenIsNeverRead :
    ∀ (d : Fin 4) (e : Fin 7),
      ((#v[#v[1, 0, 0, 1, 1, 1, 1, 0], #v[0, 0, 1, 0, 0, 1, 0, 0], #v[0, 0, 0, 0, 1, 1, 0, 0],
        #v[1, 0, 0, 1, 1, 0, 0, 0]] : Vector Pattern 4)[d])[e.val] =
      ((slot .seg 0 0 0 false).pat[d])[e.val] := by decide

theorem test_witness_GoodEndIsDarkAndStable :
    Reachable State.reset ∧ EndedWell State.reset ∧ State.reset.resetIn = false :=
  ⟨.reset test_runStart, ⟨rfl, rfl⟩, rfl⟩

/-- A reachable state of a render: `"12.34"` presented after reset and accepted. -/
theorem test_witness_NothingIsPresentedDuringARender :
    ∃ s, Reachable s ∧ s.phase = .seg ∧ s.phase ≠ .idle :=
  ⟨({ State.reset with calls := [] } : State).acceptText text1234,
    .step (.env (.reset test_runStart) (.present 2#2 text1234 _ rfl rfl rfl)) rfl, by decide, by decide⟩

/-- Steps of a run with the texts it has taken so far. -/
def runTaking : Nat → List (List Char8) → State → Option (List (List Char8) × State)
  | 0, xs, s => some (xs, s)
  | k + 1, xs, s =>
    match s.resetIn, step s with
    | false, .next t => runTaking k (xs ++ s.taken) t
    | _, _ => none

theorem runTaking_meets {k : Nat} : ∀ {xs ys : List (List Char8)} {s t : State},
    Reachable s ∧ RunOf xs s → runTaking k xs s = some (ys, t) → Reachable t ∧ RunOf ys t := by
  induction k with
  | zero =>
    intro xs ys s t h hk
    cases hk
    exact h
  | succ k ih =>
    intro xs ys s t h hk
    simp only [runTaking] at hk
    split at hk
    · rename_i hr hs
      exact ih ⟨.step h.1 hs, .step h.2 hr hs⟩ hk
    · cases hk

/-- A run that begins at reset, with some answers to come and the request `x` presented, seen after `k`
steps. -/
theorem run_of_check (bs : List Bool) (x : List Char8) (k : Nat) (f : List (List Char8) × State → Bool)
    (h : (runTaking k [] (start bs [.op 2#2 x])).any f = true) :
    ∃ xs s, (Reachable s ∧ RunOf xs s) ∧ f (xs, s) = true := by
  have h0 : Reachable (start bs [.op 2#2 x]) ∧ RunOf [] (start bs [.op 2#2 x]) :=
    ⟨.env (.env (.reset test_runStart) (.answer bs)) (.present 2#2 x _ rfl rfl rfl),
      .env (.env (.reset test_runStart) (.answer bs)) (.present 2#2 x _ rfl rfl rfl)⟩
  cases hr : runTaking k [] (start bs [.op 2#2 x]) with
  | none => simp [hr] at h
  | some p => exact ⟨p.1, p.2, runTaking_meets h0 hr, by simpa [hr] using h⟩

/-- A run in `IDLE` after `"12.34"` was taken and rendered, with its 44 events in `TRACE`. -/
theorem test_witness_TraceInIdleIsWholeRenders :
    ∃ xs s, (Reachable s ∧ RunOf xs s) ∧
      (xs == [text1234] && s.phase == .idle && s.trace.length == 44) = true :=
  run_of_check (List.replicate 40 false) text1234 45
    (fun p => p.1 == [text1234] && p.2.phase == .idle && p.2.trace.length == 44) (by decide)

/-- The other phases: `IDLE` after a refusal, a render under way, `FAULT` at the second write. -/
theorem test_witness_EveryRequestIsAccountedFor :
    (∃ xs s, (Reachable s ∧ RunOf xs s) ∧
      (xs == [[]] && s.phase == .idle && s.err == .malformedDisplayString) = true) ∧
    (∃ xs s, (Reachable s ∧ RunOf xs s) ∧
      (xs == [text1234] && s.busy && s.trace == [.w 0 1]) = true) ∧
    (∃ xs s, (Reachable s ∧ RunOf xs s) ∧
      (xs == [text1234] && s.phase == .fault && s.trace == [.w 0 1, .wf 1 0]) = true) :=
  ⟨run_of_check [] [] 1
      (fun p => p.1 == [[]] && p.2.phase == .idle && p.2.err == .malformedDisplayString) (by decide),
    run_of_check [false] text1234 2
      (fun p => p.1 == [text1234] && p.2.busy && p.2.trace == [.w 0 1]) (by decide),
    run_of_check [false, true] text1234 3
      (fun p => p.1 == [text1234] && p.2.phase == .fault && p.2.trace == [.w 0 1, .wf 1 0]) (by decide)⟩

/-- A state at the start of a decode whose next step is a render's, and one that waits. -/
theorem test_witness_WorkingVariablesHoldNothingBetweenSteps :
    Reachable State.reset ∧ (slot .seg 2 0 0 false).scan = Scan.start ∧
    onNext (step (slot .seg 2 0 0 false)) (fun _ => true) = true ∧
    State.reset.scan = Scan.start ∧ onNext (step State.reset) (fun _ => true) = true :=
  ⟨.reset test_runStart, rfl, by decide, rfl, by decide⟩

/-- A run meets `FAULT`: the first write of its first request fails. -/
theorem test_witness_RunsStopOnlyInFault :
    ∃ xs s, (Reachable s ∧ RunOf xs s) ∧ (s.phase == .fault && !s.resetIn) = true :=
  run_of_check [true] text1234 2 (fun p => p.2.phase == .fault && !p.2.resetIn) (by decide)

end Sys2Proof.Tests
end

section
/-! SUPPORT. What one step writes: at most one line, recorded in `TRACE` (`spec/00_scope.md` R7,
`spec/10_state.md` R25, R30, `spec/20_memory.md` R47, R50); and the parameters after reset (R6). -/

namespace Sys2Proof.Machine

/-- From `s` to `t` level `v` was written to line `n` and nothing else: the write succeeded and is
recorded by `W`, or it failed, is recorded by `WF`, and the block is in `FAULT` (R43, R157). -/
def WroteLine (n : Fin 12) (v : Level) (s t : State) : Prop :=
  (t.trace = s.trace ++ [.w n v] ∧ t.line n = v ∧ SameOtherLines n s t) ∨
    (t.trace = s.trace ++ [.wf n v] ∧ t.phase = .fault ∧ SameOtherLines n s t)

theorem sameOtherLines_of_set {s t : State} {n : Fin 12} {v : Level} (h : t.lines = s.lines.set n v) :
    SameOtherLines n s t := fun m hm => by
  simp [line_of_set h, hm]

/-- A step kind that finishes its line write without touching lines or `TRACE` writes that one line. -/
theorem wroteLine_finish (n : Fin 12) (v : Level) (s : State) {f : State → State}
    (hl : ∀ u, (f u).lines = u.lines) (ht : ∀ u, (f u).trace = u.trace) :
    WroteLine n v s ((lineWrite n v s).finish f) := by
  obtain ⟨-, h⟩ | ⟨-, h⟩ := lineWrite_cases n v s <;> rw [h]
  · have hset : (f (s.wrote n v)).lines = s.lines.set n v := hl _
    exact .inl ⟨ht _, by simp [line_of_set hset], sameOtherLines_of_set hset⟩
  · exact .inr ⟨rfl, rfl, sameOtherLines_of_set (State.writeFailed_lines s n v)⟩

/-- A step kind that issues a line write writes exactly that line (R123 to R125, R127). -/
theorem exec_wroteLine {i : Instr} {n : Fin 12} {v : Level} {s t : State}
    (hw : stepWrite i s = some (n, v)) (h : exec i s = .next t) : WroteLine n v s t := by
  cases i with
  | segWrite =>
    obtain ⟨rfl, rfl⟩ := Prod.mk.inj (Option.some.inj hw)
    simp only [exec, execSegWrite, inPhase_eq_next] at h
    obtain ⟨-, rfl⟩ := h
    exact wroteLine_finish _ _ s (fun _ => afterSeg_lines) fun _ => afterSeg_trace
  | dpWrite =>
    obtain ⟨rfl, rfl⟩ := Prod.mk.inj (Option.some.inj hw)
    simp only [exec, execDpWrite, inPhase_eq_next] at h
    obtain ⟨-, rfl⟩ := h
    exact wroteLine_finish _ _ s (fun _ => rfl) fun _ => rfl
  | digOn =>
    obtain ⟨rfl, rfl⟩ := Prod.mk.inj (Option.some.inj hw)
    simp only [exec, execDigOn, inPhase_eq_next] at h
    obtain ⟨-, rfl⟩ := h
    exact wroteLine_finish _ _ s (fun _ => rfl) fun _ => rfl
  | digOff =>
    obtain ⟨rfl, rfl⟩ := Prod.mk.inj (Option.some.inj hw)
    simp only [exec, execDigOff, inPhase_eq_next] at h
    obtain ⟨-, rfl⟩ := h
    exact wroteLine_finish _ _ s (fun _ => afterOff_lines) fun _ => afterOff_trace
  | _ => simp [stepWrite] at hw

/-- DWELL writes no line and records one `Tick` (R126). -/
theorem exec_dwell_ticks {s t : State} (h : exec .dwell s = .next t) :
    t.trace = s.trace ++ [.tick] ∧ t.lines = s.lines := by
  simp only [exec, execDwell, inPhase_eq_next] at h
  obtain ⟨-, rfl⟩ := h
  split <;> exact ⟨rfl, rfl⟩

@[simp] theorem acceptText_trace (s : State) (x : List Char8) : (s.acceptText x).trace = s.trace := by
  cases hd : decodeFrame x with
  | none => simp [acceptText_malformed hd]
  | some f => simp [acceptText_ok hd]

@[simp] theorem acceptText_lines (s : State) (x : List Char8) : (s.acceptText x).lines = s.lines := by
  cases hd : decodeFrame x with
  | none => simp [acceptText_malformed hd]
  | some f => simp [acceptText_ok hd]

/-- What a step without a reset records in `TRACE` and which lines it leaves: nothing and all in `IDLE`, a
tick and all in `DWELL`, one write in every other phase (R7, R121). -/
theorem step_trace_cases {s t : State} (hr : s.resetIn = false) (h : step s = .next t) :
    (t.trace = s.trace ∧ t.lines = s.lines) ∨ (t.trace = s.trace ++ [.tick] ∧ t.lines = s.lines) ∨
      ∃ n v, WroteLine n v s t := by
  obtain ⟨hr', -⟩ | ⟨-, ⟨-, x, rest, -, rfl⟩ | ⟨-, hc⟩ | ⟨-, h⟩ | ⟨-, h⟩ | ⟨-, h⟩ | ⟨-, h⟩ | ⟨-, h⟩⟩ :=
    step_cases h
  · simp [hr] at hr'
  · exact .inl ⟨by simp, by simp⟩
  · rw [hc]
    exact .inl ⟨rfl, rfl⟩
  · exact .inr (.inr ⟨_, _, exec_wroteLine rfl h⟩)
  · exact .inr (.inr ⟨_, _, exec_wroteLine rfl h⟩)
  · exact .inr (.inr ⟨_, _, exec_wroteLine rfl h⟩)
  · exact .inr (.inl (exec_dwell_ticks h))
  · exact .inr (.inr ⟨_, _, exec_wroteLine rfl h⟩)

/-- Settles O37: a step is a call or an ACCEPT, a DWELL, or a step kind with its one line write. -/
theorem oneLineWritePerStep : Obligations.OneLineWritePerStep := by
  intro s t hr h
  obtain ⟨ht, hl⟩ | ⟨ht, hl⟩ | ⟨n, v, hw | hf⟩ := step_trace_cases hr h
  · exact .inl ⟨ht, line_of_lines_eq hl⟩
  · exact .inr (.inl ⟨ht, line_of_lines_eq hl⟩)
  · exact .inr (.inr (.inl ⟨n, v, hw⟩))
  · exact .inr (.inr (.inr ⟨n, v, hf⟩))

/-- Settles O45: each default is read off the reset state, and 1 and 8 are the least values R6 allows. -/
theorem defaultParameters : Obligations.DefaultParameters :=
  ⟨rfl, rfl, rfl, rfl, rfl, Nat.le_refl 1, Nat.le_refl 8⟩

end Sys2Proof.Machine
end

section
/-! SUPPORT. The invariant (`spec/10_state.md` R32) over the parts of a step: what it says of a waiting
block, of a slot under way and of a failed write; that a state right after reset meets it (R31); and that
every step and every move of the environment keeps it (R183). -/

namespace Sys2Proof.Machine

variable {s t u : State}

/-! ## What an advance of the sequencer leaves -/

/-- From `s` to `t` only the sequencer's registers, or what is the environment's, differ. -/
structure SequencerOnly (s t : State) : Prop where
  text : SameText s t
  frame : SameFrame s t
  lines : t.lines = s.lines
  err : t.err = s.err
  scan : t.scan = s.scan

theorem sequencerOnly_set {p : Phase} {d : Fin 4} {i : Fin 7} {w : Nat} :
    SequencerOnly s { s with phase := p, dIx := d, sIx := i, dw := w } :=
  ⟨⟨rfl, rfl, rfl⟩, ⟨rfl, rfl, rfl⟩, rfl, rfl, rfl⟩

theorem sequencerOnly_record (s : State) (e : Event) : SequencerOnly s (s.record e) :=
  ⟨⟨rfl, rfl, rfl⟩, ⟨rfl, rfl, rfl⟩, rfl, rfl, rfl⟩

theorem sequencerOnly_afterSeg (s : State) : SequencerOnly s (afterSeg s) :=
  ⟨⟨afterSeg_cfg, afterSeg_text, afterSeg_tlen⟩, ⟨afterSeg_ch, afterSeg_pat, afterSeg_pt⟩,
    afterSeg_lines, afterSeg_err, afterSeg_scan⟩

theorem sequencerOnly_afterOff (s : State) : SequencerOnly s (afterOff s) :=
  ⟨⟨afterOff_cfg, afterOff_text, afterOff_tlen⟩, ⟨afterOff_ch, afterOff_pat, afterOff_pt⟩,
    afterOff_lines, afterOff_err, afterOff_scan⟩

theorem SameText.trans (h : SameText s t) (g : SameText t u) : SameText s u :=
  ⟨g.1.trans h.1, g.2.1.trans h.2.1, g.2.2.trans h.2.2⟩

theorem SameFrame.trans (h : SameFrame s t) (g : SameFrame t u) : SameFrame s u :=
  ⟨g.1.trans h.1, g.2.1.trans h.2.1, g.2.2.trans h.2.2⟩

theorem SequencerOnly.trans (h : SequencerOnly s t) (g : SequencerOnly t u) : SequencerOnly s u :=
  ⟨h.text.trans g.text, h.frame.trans g.frame, g.lines.trans h.lines, g.err.trans h.err,
    g.scan.trans h.scan⟩

theorem wrote_sameText (s : State) (n : Fin 12) (v : Level) : SameText s (s.wrote n v) := by
  simp [SameText]

theorem wrote_sameFrame (s : State) (n : Fin 12) (v : Level) : SameFrame s (s.wrote n v) := by
  simp [SameFrame]

theorem writeFailed_sameText (s : State) (n : Fin 12) (v : Level) : SameText s (s.writeFailed n v) := by
  simp [SameText]

theorem writeFailed_sameFrame (s : State) (n : Fin 12) (v : Level) :
    SameFrame s (s.writeFailed n v) := by
  simp [SameFrame]

/-! ## A waiting block -/

/-- A level is one of two (R9): what is not `ACTIVE` is `INACTIVE`. -/
theorem eq_inactive_iff (s : State) (v : Level) : v = s.inactive ↔ v ≠ s.active := by
  have : ∀ x a : Level, x = ~~~a ↔ x ≠ a := by decide
  exact this v s.cfg.digActive

/-- In `IDLE` the invariant is the ranges, zero counters, dark digit lines and no HardwareIOFailure. -/
theorem invariant_of_idle (hp : s.phase = .idle) (params : s.cfg.Admissible)
    (latch : s.text.length = s.cfg.textMax ∧ s.tlen ≤ s.cfg.textMax)
    (counters : s.dIx = 0 ∧ s.sIx = 0 ∧ s.dw = 0) (dark : ∀ d, s.dig d ≠ s.active)
    (err : s.err ≠ .hardwareIOFailure) : Invariant s := by
  obtain ⟨hd, hs, hw⟩ := counters
  constructor
  case params => exact params
  all_goals simp_all [State.busy]

/-- A state right after reset meets the invariant (R31, R32). -/
theorem IsReset.invariant (h : IsReset s) : Invariant s :=
  invariant_of_idle h.phase h.params h.latch h.counters
    (fun d => (eq_inactive_iff s _).mp (h.dark d)) (by simp [h.err])

theorem resetWith_dig (cfg : Config) (d : Fin 4) : (State.resetWith cfg).dig d = ~~~cfg.digActive := by
  fin_cases d <;> rfl

theorem doReset_isReset (h : s.cfg.Admissible) : IsReset s.doReset where
  params := h
  latch := ⟨List.length_replicate, Nat.zero_le _⟩
  phase := rfl
  counters := ⟨rfl, rfl, rfl⟩
  err := rfl
  dark := resetWith_dig s.cfg
  trace := rfl

/-- Settles O33: an R31 state waits in `IDLE` with dark digits, and the model's reset is an R31 state. -/
theorem resetMeetsTheInvariant : Obligations.ResetMeetsTheInvariant :=
  ⟨fun _ h => h.invariant, fun cfg h => doReset_isReset (s := State.resetWith cfg) h⟩

/-- Settles O5: every value is read off the reset state, the four digit lines one by one. -/
theorem resetLeavesTheSpecifiedValues : Obligations.ResetLeavesTheSpecifiedValues :=
  ⟨rfl, fun cfg => ⟨rfl, rfl, rfl, rfl, rfl, resetWith_dig cfg, rfl, rfl, rfl⟩⟩

/-! ## A slot under way -/

/-- What the invariant says of the current slot during a render. -/
structure SlotInvariant (s : State) : Prop where
  dwCounts : s.phase = .dwell → 1 ≤ s.dw ∧ s.dw ≤ s.cfg.dwellTicks
  dwRests : s.phase ≠ .dwell → s.dw = 0
  slotIndex : s.phase.afterSegs → s.sIx = 6
  digits : ∀ d, s.dig d = s.active ↔ (s.phase = .dwell ∨ s.phase = .off) ∧ d = s.dIx
  segsSoFar : s.phase = .seg → ∀ i, i < s.sIx → s.seg i = (s.pat[s.dIx])[i.val]
  segs : s.phase.afterSegs → ∀ i : Fin 7, s.seg i = (s.pat[s.dIx])[i.val]
  point : s.phase.afterPoint → s.dpl = Level.ofBool (!s.pt[s.dIx])

/-- All digit lines are dark outside `DWELL`, `OFF` and `FAULT` (R32). -/
theorem Invariant.dark (h : Invariant s) (h1 : s.phase ≠ .dwell) (h2 : s.phase ≠ .off)
    (h3 : s.phase ≠ .fault) (d : Fin 4) : s.dig d ≠ s.active :=
  fun hd => (h.blank h3 d hd).elim h1 h2

theorem Invariant.slot (h : Invariant s) (hf : s.phase ≠ .fault) : SlotInvariant s where
  dwCounts := h.dwCounts
  dwRests := h.dwRests
  slotIndex := h.slotIndex
  digits d := ⟨fun ha => ⟨h.blank hf d ha, h.oneActive d ha⟩, fun ⟨hp, hd⟩ => hd ▸ h.lit hp⟩
  segsSoFar := h.segsSoFar
  segs := h.segs
  point := h.point

/-- During a render the invariant is the ranges, the slot's invariant, the frame of the text and no error. -/
theorem SlotInvariant.invariant (h : SlotInvariant s) (hb : s.busy = true) (params : s.cfg.Admissible)
    (latch : s.text.length = s.cfg.textMax ∧ s.tlen ≤ s.cfg.textMax) (frame : FrameOfText s)
    (err : s.err = .none) : Invariant s := by
  have hp : s.phase ≠ .idle ∧ s.phase ≠ .fault := by simpa [State.busy] using hb
  exact {
    params, latch, frame := fun _ => frame, errBusy := fun _ => err
    dwCounts := h.dwCounts, dwRests := h.dwRests, slotIndex := h.slotIndex
    segsSoFar := h.segsSoFar, segs := h.segs, point := h.point
    idleIndex := fun hi => absurd hi hp.1
    oneActive := fun d hd => ((h.digits d).mp hd).2
    blank := fun _ d hd => ((h.digits d).mp hd).1
    lit := fun hl => (h.digits _).mpr ⟨hl, rfl⟩
    errFault := by simp [err, hp.2] }

/-- `t` has the parameters and the frame latch of `s` and its lines, but for level `v` on line `n`. -/
structure LineSet (n : Fin 12) (v : Level) (s t : State) : Prop where
  cfg : t.cfg = s.cfg
  pat : t.pat = s.pat
  pt : t.pt = s.pt
  line : ∀ m, t.line m = if m = n then v else s.line m

section LineSet
variable {n : Fin 12} {v : Level}

theorem SequencerOnly.lineSet (q : SequencerOnly (s.wrote n v) t) : LineSet n v s t where
  cfg := q.text.1.trans (State.wrote_cfg s n v)
  pat := q.frame.2.1.trans (State.wrote_pat s n v)
  pt := q.frame.2.2.trans (State.wrote_pt s n v)
  line := line_of_set (q.lines.trans (State.wrote_lines s n v))

theorem LineSet.active (w : LineSet n v s t) : t.active = s.active := congrArg Config.digActive w.cfg

theorem LineSet.dig (w : LineSet n v s t) (d : Fin 4) :
    t.dig d = if digLine d = n then v else s.dig d := w.line _

theorem LineSet.seg (w : LineSet n v s t) (i : Fin 7) :
    t.seg i = if segLine i = n then v else s.seg i := w.line _

theorem LineSet.dpl (w : LineSet n v s t) : t.dpl = if dpLine = n then v else s.dpl := w.line _

end LineSet

/-- A slot begins dark, with no segment written. -/
theorem slotInvariant_of_start (hp : s.phase = .seg) (hs : s.sIx = 0) (hw : s.dw = 0)
    (dark : ∀ d, s.dig d ≠ s.active) : SlotInvariant s := by
  constructor <;> simp_all

section slot
variable (h : SlotInvariant s)
include h

/-- A segment write extends the segments written so far by one (R123). -/
theorem SlotInvariant.seg_written (hp : s.phase = .seg)
    (w : LineSet (segLine s.sIx) (s.pat[s.dIx])[s.sIx.val] s t) (hd : t.dIx = s.dIx) {i : Fin 7}
    (hi : i ≤ s.sIx) : t.seg i = (t.pat[t.dIx])[i.val] := by
  by_cases he : i = s.sIx
  · simp [w.seg, w.pat, hd, he]
  · simpa [w.seg, w.pat, hd, he] using h.segsSoFar hp i (by omega)

/-- A segment write leaves the digits dark. -/
theorem SlotInvariant.dark_of_segWrite (hp : s.phase = .seg) {v : Level}
    (w : LineSet (segLine s.sIx) v s t) (d : Fin 4) : t.dig d ≠ t.active := by
  simp [w.dig, w.active, h.digits, hp]

/-- A segment write that is not the slot's last (R123). -/
theorem SlotInvariant.segMore (hp : s.phase = .seg)
    (w : LineSet (segLine s.sIx) (s.pat[s.dIx])[s.sIx.val] s t) (ht : t.phase = .seg)
    (hd : t.dIx = s.dIx) (hs : t.sIx.val = s.sIx.val + 1) (hw : t.dw = s.dw) : SlotInvariant t := by
  have dark := h.dark_of_segWrite hp w
  constructor
  case segsSoFar => exact fun _ i hi => h.seg_written hp w hd (by omega)
  all_goals simp_all [h.dwRests]

/-- The last segment write of a slot (R123). -/
theorem SlotInvariant.segLast (hp : s.phase = .seg) (h6 : s.sIx = 6)
    (w : LineSet (segLine s.sIx) (s.pat[s.dIx])[s.sIx.val] s t) (ht : t.phase = .dp)
    (hc : SameCounters s t) : SlotInvariant t := by
  have dark := h.dark_of_segWrite hp w
  obtain ⟨hd, hs, hw⟩ := hc
  constructor
  case segs => exact fun _ i => h.seg_written hp w hd (by omega)
  all_goals simp_all [h.dwRests]

/-- The point write (R124). -/
theorem SlotInvariant.pointWritten (hp : s.phase = .dp)
    (w : LineSet dpLine (Level.ofBool (!s.pt[s.dIx])) s t) (ht : t.phase = .on)
    (hc : SameCounters s t) : SlotInvariant t := by
  obtain ⟨hd, hs, hw⟩ := hc
  constructor
  case slotIndex => exact fun _ => hs.trans (h.slotIndex (.inl hp))
  case digits => simp [w.dig, w.active, h.digits, hp, ht]
  case segs => exact fun _ i => by simpa [w.seg, w.pat, hd] using h.segs (.inl hp) i
  case point => exact fun _ => by simp [w.dpl, w.pt, hd]
  all_goals simp_all [h.dwRests]

/-- The activation of the digit (R125): the one digit line that becomes `ACTIVE`. -/
theorem SlotInvariant.digitOn (hp : s.phase = .on) (h1 : 1 ≤ s.cfg.dwellTicks)
    (w : LineSet (digLine s.dIx) s.active s t) (ht : t.phase = .dwell)
    (hd : t.dIx = s.dIx) (hs : t.sIx = s.sIx) (hw : t.dw = s.cfg.dwellTicks) : SlotInvariant t := by
  have afterPoint : s.phase.afterPoint := .inl hp
  constructor
  case slotIndex => exact fun _ => hs.trans (h.slotIndex (.inr afterPoint))
  case digits => simp [w.dig, w.active, h.digits, hp, ht, hd]
  case segs => exact fun _ i => by simpa [w.seg, w.pat, hd] using h.segs (.inr afterPoint) i
  case point => exact fun _ => by simpa [w.dpl, w.pt, hd] using h.point afterPoint
  all_goals simp_all [w.cfg]

/-- A tick, the last or not (R126): no line changes. -/
theorem SlotInvariant.ticked (hp : s.phase = .dwell) (q : SequencerOnly s t)
    (hd : t.dIx = s.dIx) (hs : t.sIx = s.sIx)
    (hw : t.phase = .dwell ∧ 1 ≤ t.dw ∧ t.dw ≤ s.dw ∨ t.phase = .off ∧ t.dw = 0) :
    SlotInvariant t := by
  have afterPoint : s.phase.afterPoint := .inr (.inl hp)
  have line := line_of_lines_eq q.lines
  obtain ⟨⟨hcfg, -⟩, ⟨-, hpat, hpt⟩, -⟩ := q
  have ht : t.phase = .dwell ∨ t.phase = .off := hw.imp And.left And.left
  constructor
  case dwCounts =>
    intro hdw
    obtain ⟨-, h1, h2⟩ | ⟨hoff, -⟩ := hw
    · exact ⟨h1, hcfg ▸ h2.trans (h.dwCounts hp).2⟩
    · simp [hdw] at hoff
  case dwRests => exact fun hne => (hw.resolve_left fun hdw => hne hdw.1).2
  case slotIndex => exact fun _ => hs.trans (h.slotIndex (.inr afterPoint))
  case digits =>
    intro d
    simpa [State.dig, State.active, line, hcfg, hd, ht, hp] using h.digits d
  case segsSoFar => exact fun hseg => by simp [hseg] at ht
  case segs => exact fun _ i => by simpa [State.seg, line, hpat, hd] using h.segs (.inr afterPoint) i
  case point => exact fun _ => by simpa [State.dpl, line, hpt, hd] using h.point afterPoint

/-- After the deactivation of the current digit all four are dark (R127, R33). -/
theorem SlotInvariant.dark_of_digitOff (w : LineSet (digLine s.dIx) s.inactive s t) (d : Fin 4) :
    t.dig d ≠ t.active := by
  rw [w.active, w.dig]
  split
  · exact (eq_inactive_iff s _).mp rfl
  · rename_i hne
    exact fun hd => hne (congrArg digLine ((h.digits d).mp hd).2)

end slot

/-! ## A failed write -/

/-- In `FAULT` after a failed write no digit line but the current digit's can be `ACTIVE`, where the write
was not to another digit's line (R157, R32). -/
theorem Invariant.writeFailed (h : Invariant s) {n : Fin 12} (v : Level) (hp : s.phase ≠ .dwell)
    (hn : ∀ d, digLine d = n → d = s.dIx) : Invariant (s.writeFailed n v) where
  params := by simpa using h.params
  latch := by simpa using h.latch
  dwCounts := nofun
  dwRests _ := by simpa using h.dwRests hp
  idleIndex := nofun
  slotIndex := nofun
  oneActive d hd := by
    rw [State.writeFailed_dIx]
    by_cases hd' : digLine d = n
    · exact hn d hd'
    · exact h.oneActive d (by simpa [State.dig, State.active, hd'] using hd)
  blank hf := absurd rfl hf
  lit := nofun
  segsSoFar := nofun
  segs := nofun
  point := nofun
  frame := nofun
  errFault := iff_of_true rfl rfl
  errBusy := nofun

/-- A step kind keeps the invariant where its write, when it succeeds, does. -/
theorem Invariant.finish (h : Invariant s) {n : Fin 12} {v : Level} {f : State → State}
    (hp : s.phase ≠ .dwell) (hn : ∀ d, digLine d = n → d = s.dIx) (hf : Invariant (f (s.wrote n v))) :
    Invariant ((lineWrite n v s).finish f) := by
  obtain ⟨-, hw⟩ | ⟨-, hw⟩ := lineWrite_cases n v s <;> rw [hw]
  · exact hf
  · exact h.writeFailed v hp hn

/-! ## The steps of a render -/

theorem FrameOfText.of_same (h : FrameOfText s) (ht : SameText s t) (hf : SameFrame s t) :
    FrameOfText t := by
  obtain ⟨hcfg, htext, htlen⟩ := ht
  obtain ⟨hch, hpat, hpt⟩ := hf
  simpa only [FrameOfText, hcfg, htext, htlen, hch, hpat, hpt] using h

/-- From one slot's state to the next nothing but the slot's own invariant is at stake. -/
theorem Invariant.of_slot (h : Invariant s) (hb : s.busy = true) (hbt : t.busy = true)
    (ht : SameText s t) (hf : SameFrame s t) (he : t.err = s.err) (slot : SlotInvariant t) :
    Invariant t :=
  slot.invariant hbt (by rw [ht.1]; exact h.params)
    (by rw [ht.1, ht.2.1, ht.2.2]; exact h.latch) ((h.frame hb).of_same ht hf) (he.trans (h.errBusy hb))

/-- The same for a step kind with its line write. -/
theorem Invariant.of_write (h : Invariant s) {n : Fin 12} {v : Level} (hb : s.busy = true)
    (hbt : t.busy = true) (q : SequencerOnly (s.wrote n v) t) (slot : LineSet n v s t → SlotInvariant t) :
    Invariant t :=
  h.of_slot hb hbt ((wrote_sameText s n v).trans q.text) ((wrote_sameFrame s n v).trans q.frame)
    (q.err.trans (State.wrote_err s n v)) (slot q.lineSet)

theorem Invariant.segWrite (h : Invariant s) (hx : exec .segWrite s = .next t) : Invariant t := by
  simp only [exec, execSegWrite, inPhase_eq_next] at hx
  obtain ⟨hp, rfl⟩ := hx
  have hb : s.busy = true := by simp [State.busy, hp]
  have hs := h.slot (by simp [hp])
  refine h.finish (by simp [hp]) (by simp) ?_
  by_cases h6 : s.sIx.val < 6
  · rw [afterSeg_more (s := s.wrote _ _) h6]
    exact h.of_write hb (by simpa [State.busy] using hb) sequencerOnly_set fun w =>
      hs.segMore hp w (by simp [hp]) (by simp) (by simp) (by simp)
  · rw [afterSeg_last (s := s.wrote _ _) h6]
    exact h.of_write hb rfl sequencerOnly_set fun w =>
      hs.segLast hp (by omega) w rfl (by simp [SameCounters])

theorem Invariant.dpWrite (h : Invariant s) (hx : exec .dpWrite s = .next t) : Invariant t := by
  simp only [exec, execDpWrite, inPhase_eq_next] at hx
  obtain ⟨hp, rfl⟩ := hx
  refine h.finish (by simp [hp]) (by simp) ?_
  exact h.of_write (by simp [State.busy, hp]) rfl sequencerOnly_set fun w =>
    (h.slot (by simp [hp])).pointWritten hp w rfl (by simp [SameCounters])

theorem Invariant.digOn (h : Invariant s) (hx : exec .digOn s = .next t) : Invariant t := by
  simp only [exec, execDigOn, inPhase_eq_next] at hx
  obtain ⟨hp, rfl⟩ := hx
  refine h.finish (by simp [hp]) (by simp) ?_
  exact h.of_write (by simp [State.busy, hp]) rfl sequencerOnly_set fun w =>
    (h.slot (by simp [hp])).digitOn hp h.params.1 w rfl (by simp) (by simp) (by simp)

theorem Invariant.dwell (h : Invariant s) (hx : exec .dwell s = .next t) : Invariant t := by
  have hp : s.phase = .dwell := by
    simp only [exec, execDwell, inPhase_eq_next] at hx
    exact hx.1
  have hb : s.busy = true := by simp [State.busy, hp]
  have hs := h.slot (by simp [hp])
  by_cases hw : 1 < s.dw
  · rw [execDwell_more hp hw] at hx
    cases hx
    have q : SequencerOnly s { s.record .tick with dw := s.dw - 1 } :=
      (sequencerOnly_record s .tick).trans sequencerOnly_set
    exact h.of_slot hb (by simpa [State.busy] using hb) q.text q.frame q.err
      (hs.ticked hp q rfl rfl (.inl ⟨hp, Nat.le_sub_one_of_lt hw, Nat.sub_le _ _⟩))
  · rw [execDwell_last hp (Nat.le_of_not_lt hw)] at hx
    cases hx
    have q : SequencerOnly s { s.record .tick with dw := 0, phase := .off } :=
      (sequencerOnly_record s .tick).trans sequencerOnly_set
    exact h.of_slot hb rfl q.text q.frame q.err (hs.ticked hp q rfl rfl (.inr ⟨rfl, rfl⟩))

theorem Invariant.digOff (h : Invariant s) (hx : exec .digOff s = .next t) : Invariant t := by
  simp only [exec, execDigOff, inPhase_eq_next] at hx
  obtain ⟨hp, rfl⟩ := hx
  have hb : s.busy = true := by simp [State.busy, hp]
  have hs := h.slot (by simp [hp])
  have hw : s.dw = 0 := hs.dwRests (by simp [hp])
  refine h.finish (by simp [hp]) (by simp) ?_
  by_cases h3 : s.dIx.val < 3
  · rw [afterOff_more (s := s.wrote _ _) h3]
    exact h.of_write hb rfl sequencerOnly_set fun w =>
      slotInvariant_of_start rfl rfl (by simp [hw]) (hs.dark_of_digitOff w)
  · rw [afterOff_last (s := s.wrote _ _) h3]
    exact invariant_of_idle rfl (by simpa using h.params) (by simpa using h.latch) (by simp [hw])
      (hs.dark_of_digitOff sequencerOnly_set.lineSet) (by simp [h.errBusy hb])

/-! ## The steps in `IDLE` -/

/-- A display string has at most 8 characters (R62). -/
theorem length_le_of_decodeFrame {x : List Char8} {f : Frame} (h : decodeFrame x = some f) :
    x.length ≤ 8 := by
  obtain ⟨⟨_, a⟩, ⟨_, b⟩, ⟨_, c⟩, ⟨_, d⟩, rfl, -⟩ := slots_of_decode h
  cases a <;> cases b <;> cases c <;> cases d <;> simp [spellSlots_cons, spellSlot]

/-- The request latch stays within its ranges (R21). -/
theorem latchText_latch (s : State) (x : List Char8)
    (h : s.text.length = s.cfg.textMax ∧ s.tlen ≤ s.cfg.textMax) :
    (s.latchText x).text.length = s.cfg.textMax ∧ (s.latchText x).tlen ≤ s.cfg.textMax := by
  unfold State.latchText
  split
  · simp
    omega
  · exact h

theorem latchText_take {x : List Char8} (h : x.length ≤ s.cfg.textMax) :
    (s.latchText x).text.take (s.latchText x).tlen = x := by
  simp [State.latchText, h]

@[simp] theorem acceptText_cfg (s : State) (x : List Char8) : (s.acceptText x).cfg = s.cfg := by
  cases hx : decodeFrame x with
  | none => simp [acceptText_malformed hx]
  | some f => simp [acceptText_ok hx]

/-- ACCEPT keeps the invariant (R122): a refusal stays in `IDLE`, an accepted text begins a dark slot. -/
theorem Invariant.acceptText (h : Invariant s) (hp : s.phase = .idle) (x : List Char8) :
    Invariant (s.acceptText x) := by
  obtain ⟨hd, hs⟩ := h.idleIndex hp
  have hw := h.dwRests (by simp [hp])
  have latch := latchText_latch s x h.latch
  have dark : ∀ d, (s.acceptText x).dig d ≠ (s.acceptText x).active := fun d => by
    have hdig : (s.acceptText x).dig d = s.dig d := line_of_lines_eq (acceptText_lines s x) _
    rw [hdig, State.active, acceptText_cfg]
    exact h.dark (by simp [hp]) (by simp [hp]) (by simp [hp]) d
  cases hx : decodeFrame x with
  | none =>
    rw [acceptText_malformed hx] at dark ⊢
    exact invariant_of_idle (by simp [hp]) (by simpa using h.params) (by simpa using latch)
      (by simp [hd, hs, hw]) dark (by simp)
  | some f =>
    have hlen := (length_le_of_decodeFrame hx).trans h.params.2
    rw [acceptText_ok hx] at dark ⊢
    exact (slotInvariant_of_start rfl rfl (by simp [hw]) dark).invariant rfl (by simpa using h.params)
      (by simpa using latch) ⟨f, by simpa [latchText_take hlen] using hx, rfl, by simp, rfl⟩ rfl

/-- Settles O32, by the kinds of step. -/
theorem stepKeepsTheInvariant : Obligations.StepKeepsTheInvariant := by
  intro s t h hstep
  obtain ⟨-, rfl⟩ | ⟨-, ⟨hp, x, rest, -, rfl⟩ | ⟨-, hc⟩ | ⟨-, hx⟩ | ⟨-, hx⟩ | ⟨-, hx⟩ | ⟨-, hx⟩ | ⟨-, hx⟩⟩ :=
    step_cases hstep
  · exact (doReset_isReset h.params).invariant
  · exact Invariant.acceptText (s := { s with calls := rest }) { h with } hp x
  · rw [hc]
    exact { h with }
  · exact h.segWrite hx
  · exact h.dpWrite hx
  · exact h.digOn hx
  · exact h.dwell hx
  · exact h.digOff hx

theorem Invariant.envMove (h : Invariant s) (he : EnvMove s t) : Invariant t := by
  cases he <;> exact { h with }

/-- Settles O34, by induction on the run: reset, a step and an environment's move keep the invariant. -/
theorem reachableStatesMeetTheInvariant : Obligations.ReachableStatesMeetTheInvariant := by
  intro s h
  induction h with
  | reset h => exact h.reset.invariant
  | step _ hs ih => exact stepKeepsTheInvariant _ _ ih hs
  | env _ he ih => exact ih.envMove he

end Sys2Proof.Machine
end

section
/-! SUPPORT. What follows for the digit lines (`spec/10_state.md` R32), and what a step leaves alone: the
latches (R21, R22), `ERR` (R26) and the decode's working variables (R28). -/

namespace Sys2Proof.Machine

variable {s t : State}

/-! ## Blanking -/

/-- No step in `DWELL`, `OFF` or `FAULT` writes a segment line or the point line (R126, R127, R157). -/
theorem phase_of_segment_line_written {n : Fin 12} {v : Level} (hr : s.resetIn = false)
    (hstep : step s = .next t) (hw : t.trace = s.trace ++ [.w n v] ∨ t.trace = s.trace ++ [.wf n v])
    (hn : n.val < 8) : s.phase ≠ .dwell ∧ s.phase ≠ .off ∧ s.phase ≠ .fault := by
  refine ⟨fun hp => ?_, fun hp => ?_, fun hp => ?_⟩
  · rw [step_dwell hr hp] at hstep
    simp [(exec_dwell_ticks hstep).1] at hw
  · rw [step_off hr hp] at hstep
    have hlt : n ≠ digLine s.dIx := fun h => by simp [h] at hn
    obtain ⟨ht, -⟩ | ⟨ht, -⟩ := exec_wroteLine rfl hstep <;> simp [ht, hlt.symm] at hw
  · simp [step_fault hr hp] at hstep

/-- A step that records a write of line `n` leaves the other lines (R7). -/
theorem sameOtherLines_of_recorded {n : Fin 12} {v : Level} (hr : s.resetIn = false)
    (hstep : step s = .next t) (hw : t.trace = s.trace ++ [.w n v] ∨ t.trace = s.trace ++ [.wf n v]) :
    SameOtherLines n s t := by
  obtain ⟨ht, -⟩ | ⟨ht, -⟩ | ⟨m, u, ⟨ht, -, hl⟩ | ⟨ht, -, hl⟩⟩ := step_trace_cases hr hstep <;>
    simp [ht] at hw
  · exact hw.1 ▸ hl
  · exact hw.1 ▸ hl

/-- Settles O35: the digit lines are dark before the step, and it writes another line. -/
theorem segmentLinesChangeUnderBlanking : Obligations.SegmentLinesChangeUnderBlanking := by
  intro s t n v h hr hstep hw hn d
  obtain ⟨h1, h2, h3⟩ := phase_of_segment_line_written hr hstep hw hn
  have before : s.dig d = s.inactive := (eq_inactive_iff s _).mpr (h.dark h1 h2 h3 d)
  have other : digLine d ≠ n := fun hd => by simp [← hd] at hn
  exact ⟨before, (sameOtherLines_of_recorded hr hstep hw _ other).trans before⟩

/-! ## What is left to ACCEPT and to a failed write -/

/-- What every instruction but ACCEPT and RENDER leaves: the latches and the parameters (R53), `ERR` but for
a failed write (R26), and, if it is a step kind, the decode's working variables (R28). -/
structure LeavesLatches (i : Instr) (s t : State) : Prop where
  text : SameText s t
  frame : SameFrame s t
  err : t.err = s.err ∨ t.err = .hardwareIOFailure ∧ t.phase = .fault
  scan : stepPhase i ≠ none → t.scan = s.scan

theorem LeavesLatches.refl {i : Instr} (h : stepPhase i = none) (k : Scan) (r : Ret) :
    LeavesLatches i s { s with scan := k, ret := r } :=
  ⟨⟨rfl, rfl, rfl⟩, ⟨rfl, rfl, rfl⟩, .inl rfl, absurd h⟩

/-- A step kind leaves the latches, its write failed or not. -/
theorem leavesLatches_finish (i : Instr) (n : Fin 12) (v : Level) {f : State → State}
    (hf : ∀ u, SequencerOnly u (f u)) : LeavesLatches i s ((lineWrite n v s).finish f) := by
  obtain ⟨-, hw⟩ | ⟨-, hw⟩ := lineWrite_cases n v s <;> rw [hw]
  · have q := hf (s.wrote n v)
    exact ⟨(wrote_sameText s n v).trans q.text, (wrote_sameFrame s n v).trans q.frame,
      .inl (q.err.trans (State.wrote_err s n v)), fun _ => q.scan.trans (State.wrote_scan s n v)⟩
  · exact ⟨writeFailed_sameText s n v, writeFailed_sameFrame s n v,
      .inr ⟨State.writeFailed_err s n v, State.writeFailed_phase s n v⟩,
      fun _ => State.writeFailed_scan s n v⟩

theorem exec_leavesLatches {i : Instr} (ha : i ≠ .accept) (hr : ∀ x, i ≠ .render x)
    (h : exec i s = .next t) : LeavesLatches i s t := by
  cases i with
  | accept => exact absurd rfl ha
  | render x => exact absurd rfl (hr x)
  | segWrite =>
    simp only [exec, execSegWrite, inPhase_eq_next] at h
    exact h.2 ▸ leavesLatches_finish _ _ _ sequencerOnly_afterSeg
  | dpWrite =>
    simp only [exec, execDpWrite, inPhase_eq_next] at h
    exact h.2 ▸ leavesLatches_finish _ _ _ fun _ => sequencerOnly_set
  | digOn =>
    simp only [exec, execDigOn, inPhase_eq_next] at h
    exact h.2 ▸ leavesLatches_finish _ _ _ fun _ => sequencerOnly_set
  | digOff =>
    simp only [exec, execDigOff, inPhase_eq_next] at h
    exact h.2 ▸ leavesLatches_finish _ _ _ sequencerOnly_afterOff
  | dwell =>
    simp only [exec, execDwell, inPhase_eq_next] at h
    obtain ⟨-, rfl⟩ := h
    split <;> exact ⟨⟨rfl, rfl, rfl⟩, ⟨rfl, rfl, rfl⟩, .inl rfl, fun _ => rfl⟩
  | _ =>
    cases h
    exact .refl rfl _ _

/-- What a step that neither resets nor takes a request leaves (R53): all it runs is a call's answer or a
step kind. -/
theorem step_leavesLatches (hr : s.resetIn = false)
    (hq : ∀ x rest, ¬(s.phase = .idle ∧ s.calls = .op 2#2 x :: rest)) (h : step s = .next t) :
    SameText s t ∧ SameFrame s t ∧ (s.phase ≠ .idle → t.scan = s.scan) := by
  have strobe : ∀ i, stepPhase i ≠ none → i ≠ .accept → exec i s = .next t →
      SameText s t ∧ SameFrame s t ∧ (s.phase ≠ .idle → t.scan = s.scan) := fun i hi ha hx =>
    have := exec_leavesLatches ha (fun x hx => hi (hx ▸ rfl)) hx
    ⟨this.text, this.frame, fun _ => this.scan hi⟩
  obtain ⟨hr', -⟩ | ⟨-, ⟨hp, x, rest, hc, -⟩ | ⟨hp, hc⟩ | ⟨-, hx⟩ | ⟨-, hx⟩ | ⟨-, hx⟩ | ⟨-, hx⟩ | ⟨-, hx⟩⟩ :=
    step_cases h
  · simp [hr] at hr'
  · exact absurd ⟨hp, hc⟩ (hq x rest)
  · rw [hc]
    exact ⟨⟨rfl, rfl, rfl⟩, ⟨rfl, rfl, rfl⟩, absurd hp⟩
  · exact strobe .segWrite nofun nofun hx
  · exact strobe .dpWrite nofun nofun hx
  · exact strobe .digOn nofun nofun hx
  · exact strobe .dwell nofun nofun hx
  · exact strobe .digOff nofun nofun hx

/-- A text longer than the latch leaves it (R21). -/
theorem acceptText_sameText {x : List Char8} (h : s.cfg.textMax < x.length) :
    SameText s (s.acceptText x) := by
  have hl : s.latchText x = s := by simp [State.latchText, Nat.not_le.mpr h]
  cases hx : decodeFrame x with
  | none => rw [acceptText_malformed hx, hl]; exact ⟨rfl, rfl, rfl⟩
  | some f => rw [acceptText_ok hx, hl]; exact ⟨rfl, rfl, rfl⟩

/-- A malformed text leaves the frame latch (R122, R156). -/
theorem acceptText_sameFrame {x : List Char8} (h : decodeFrame x = none) :
    SameFrame s (s.acceptText x) := by
  rw [acceptText_malformed h]
  exact ⟨State.latchText_ch s x, State.latchText_pat s x, State.latchText_pt s x⟩

theorem step_cfg (h : step s = .next t) : t.cfg = s.cfg := by
  cases hr : s.resetIn with
  | true => rw [step_reset hr] at h; cases h; rfl
  | false =>
    by_cases hq : ∃ x rest, s.phase = .idle ∧ s.calls = .op 2#2 x :: rest
    · obtain ⟨x, rest, hp, hc⟩ := hq
      rw [step_request hr hp hc, execAccept_request hp hc] at h
      cases h
      exact acceptText_cfg _ x
    · obtain ⟨⟨hcfg, -⟩, -⟩ := step_leavesLatches hr (fun x rest hc => hq ⟨x, rest, hc⟩) h
      exact hcfg

/-- Settles O40: only ACCEPT and RENDER latch, and ACCEPT what is well formed and fits. -/
theorem latchesChangeOnlyAtAccept : Obligations.LatchesChangeOnlyAtAccept := by
  refine ⟨fun s t h => step_cfg h, fun i s t ha hr h => ?_, fun s t hr hq h => ?_,
    fun s t x rest hr hp hc h => ?_⟩
  · have := exec_leavesLatches ha hr h
    exact ⟨this.text, this.frame⟩
  · obtain ⟨ht, hf, -⟩ := step_leavesLatches hr hq h
    exact ⟨ht, hf⟩
  · rw [step_request hr hp hc, execAccept_request hp hc] at h
    cases h
    exact ⟨acceptText_sameFrame (s := { s with calls := rest }),
      acceptText_sameText (s := { s with calls := rest })⟩

/-! ## `ERR` decides nothing -/

/-- ACCEPT overwrites `ERR` in both its outcomes, so what it was does not matter (R122). -/
theorem acceptText_setErr (s : State) (e : Err) (x : List Char8) :
    State.acceptText { s with err := e } x = s.acceptText x := by
  cases hx : decodeFrame x <;> simp only [State.acceptText, hx, State.latchText] <;> split <;> rfl

/-- The state with `ERR` taken out of the comparison. -/
def State.noErr (s : State) : State := { s with err := .none }

/-- A step kind whose advance passes `ERR` on does the same whatever `ERR` was, up to `ERR`. -/
theorem finish_setErr (s : State) (e : Err) (n : Fin 12) (v : Level) {f : State → State}
    (hf : ∀ u : State, (f { u with err := e }).noErr = (f u).noErr) :
    ((lineWrite n v { s with err := e }).finish f).noErr = ((lineWrite n v s).finish f).noErr := by
  have hw : ({ s with err := e } : State).writeFails = s.writeFails := rfl
  cases hs : s.writeFails with
  | false =>
    rw [lineWrite_ok n v hs, lineWrite_ok n v (hw.trans hs)]
    exact hf (s.wrote n v)
  | true =>
    rw [lineWrite_raised n v hs, lineWrite_raised n v (hw.trans hs)]
    rfl

theorem afterSeg_setErr (e : Err) (u : State) :
    (afterSeg { u with err := e }).noErr = (afterSeg u).noErr := by
  unfold afterSeg
  split <;> rfl

theorem afterOff_setErr (e : Err) (u : State) :
    (afterOff { u with err := e }).noErr = (afterOff u).noErr := by
  unfold afterOff
  split <;> rfl

/-- Whether a step kind is enabled does not depend on `ERR` (R121). -/
theorem inPhase_setErr (p : Phase) (s : State) (e : Err) {f : State → State}
    (h : (f { s with err := e }).noErr = (f s).noErr) :
    mapNext State.noErr (inPhase p { s with err := e } f) = mapNext State.noErr (inPhase p s f) := by
  unfold inPhase
  split
  · exact congrArg Host.Outcome.next h
  · rfl

/-- No instruction reads `ERR` (R26). -/
theorem exec_setErr (i : Instr) (s : State) (e : Err) :
    mapNext State.noErr (exec i { s with err := e }) = mapNext State.noErr (exec i s) := by
  cases i with
  | accept =>
    simp only [exec, execAccept]
    split
    · rename_i x rest _ _
      exact congrArg (fun u => Host.Outcome.next u.noErr) (acceptText_setErr { s with calls := rest } e x)
    · rfl
  | render x =>
    have hr : renderText x { s with err := e } = renderText x s := by
      simp only [renderText, acceptText_setErr]
    simp only [exec, execRender, hr]
  | segWrite =>
    simp only [exec, execSegWrite]
    refine inPhase_setErr .seg s e ?_
    exact finish_setErr s e _ _ (afterSeg_setErr e)
  | dpWrite =>
    simp only [exec, execDpWrite]
    refine inPhase_setErr .dp s e ?_
    exact finish_setErr s e _ _ fun _ => rfl
  | digOn =>
    simp only [exec, execDigOn]
    refine inPhase_setErr .on s e ?_
    exact finish_setErr s e _ _ fun _ => rfl
  | dwell =>
    simp only [exec, execDwell]
    refine inPhase_setErr .dwell s e ?_
    by_cases hd : s.dw > 1 <;> simp [hd, State.noErr]
  | digOff =>
    simp only [exec, execDigOff]
    refine inPhase_setErr .off s e ?_
    exact finish_setErr s e _ _ (afterOff_setErr e)
  | _ => rfl

/-- Settles O38: only a failed write touches `ERR` outside ACCEPT and RENDER, `FAULT` has no step, and `ERR`
is read by no instruction. -/
theorem errReportsAndDecidesNothing : Obligations.ErrReportsAndDecidesNothing := by
  refine ⟨fun i s t h hne => ?_, fun s t h he hr hs => ?_, fun s => by simp [State.busy], exec_setErr⟩
  · by_cases hi : i = .accept ∨ ∃ x, i = .render x
    · exact .inr hi
    · simp only [not_or, not_exists] at hi
      exact .inl ((exec_leavesLatches hi.1 hi.2 h).err.resolve_left hne)
  · rw [step_fault hr (h.errFault.mpr he)] at hs
    cases hs

/-! ## The decode's working variables -/

@[simp] theorem acceptText_scan (s : State) (x : List Char8) : (s.acceptText x).scan = Scan.start := by
  cases hx : decodeFrame x with
  | none => rw [acceptText_malformed hx]
  | some f => rw [acceptText_ok hx]

/-- A call of ENCODE leaves the working variables and one of DECODE_FRAME clears them (R28). -/
theorem step_op_scan {n : BitVec 2} {x : List Char8} {rest : List Call} (hr : s.resetIn = false)
    (hp : s.phase = .idle) (hc : s.calls = .op n x :: rest) (hn : n ≠ 2#2) (h : step s = .next t) :
    t.scan = s.scan ∨ t.scan = Scan.start := by
  simp only [step, hr, fetch, hp, hc, hn, Bool.false_eq_true, if_false] at h
  split at h
  · rename_i hd
    obtain ⟨c, -, -, rfl⟩ | ⟨-, rfl⟩ | ⟨h2, -⟩ := Laws.WordRoundTrip.op_cases hd
    · cases h; exact .inl rfl
    · cases h; exact .inr rfl
    · exact absurd h2 hn
  · cases h

/-- A step that runs no single character leaves the working variables as at the start of a decode (R28). -/
theorem step_scan (hs : s.scan = Scan.start)
    (hq : ∀ c rest, ¬(s.phase = .idle ∧ s.calls = .char c :: rest)) (h : step s = .next t) :
    t.scan = Scan.start := by
  cases hr : s.resetIn with
  | true => rw [step_reset hr] at h; cases h; rfl
  | false =>
    by_cases hp : s.phase = .idle
    · match hc : s.calls with
      | [] => rw [step_wait hr hp hc] at h; cases h; exact hs
      | .char c :: rest => exact absurd ⟨hp, hc⟩ (hq c rest)
      | .op n x :: rest =>
        by_cases hn : n = 2#2
        · subst hn
          rw [step_request hr hp hc, execAccept_request hp hc] at h
          cases h
          exact acceptText_scan _ x
        · exact (step_op_scan hr hp hc hn h).elim (·.trans hs) id
    · obtain ⟨-, -, hscan⟩ := step_leavesLatches hr (fun _ _ hi => hp hi.1) h
      exact (hscan hp).trans hs

/-- No single character is presented in a run, and the working variables hold nothing (R28, R183). -/
theorem Reachable.scan_and_calls (h : Reachable s) :
    s.scan = Scan.start ∧ ∀ c, Call.char c ∉ s.calls := by
  induction h with
  | reset h => exact ⟨h.scan, by simp [h.calls]⟩
  | step _ hs ih =>
    obtain ⟨hscan, hcalls⟩ := ih
    refine ⟨step_scan hscan (fun c rest hi => hcalls c (by simp [hi.2])) hs, fun c hc => hcalls c ?_⟩
    obtain he | ⟨-, d, he⟩ := step_calls hs
    · exact he ▸ hc
    · exact he ▸ List.mem_cons_of_mem d hc
  | env _ he ih =>
    obtain ⟨hscan, hcalls⟩ := ih
    cases he with
    | present => exact ⟨hscan, by simp⟩
    | answer => exact ⟨hscan, hcalls⟩
    | askReset => exact ⟨hscan, hcalls⟩

/-- Settles O46: a run presents no single character, and no other step leaves anything behind. -/
theorem workingVariablesHoldNothingBetweenSteps :
    Obligations.WorkingVariablesHoldNothingBetweenSteps :=
  ⟨fun _ h => h.scan_and_calls.1, fun _ _ hs hq h => step_scan hs hq h⟩

end Sys2Proof.Machine
end

section
/-! SUPPORT. The encoding (`spec/30_encoding.md`): display strings and their frames (R62), the words of
the tables (R60, R66, R67) and the words that match no row (R68). -/

namespace Sys2Proof.Machine

/-! ## Display strings -/

/-- Settles O16: decoding succeeds on the spellings of four slots only, and gives those slots back. -/
theorem decodeAndSpellAgree : Obligations.DecodeAndSpellAgree := by
  refine ⟨fun f => ?_, fun x f h => ?_⟩
  · rw [spell_eq_spellSlots, decode_slots rfl, vector4_eq, vector4_eq]
  · obtain ⟨a, b, c, d, rfl, rfl⟩ := slots_of_decode h
    exact spell_eq_spellSlots _

/-- One character for each glyph and one more for each point (R62). -/
theorem length_spellSlots (l : List (Glyph × Bool)) :
    (spellSlots l).length = l.length + l.countP Prod.snd := by
  induction l with
  | nil => rfl
  | cons p l ih =>
    obtain ⟨g, q⟩ := p
    cases q <;> simp [spellSlots_cons, spellSlot, ih] <;> omega

/-- A display string has 4 to 8 characters (R62). -/
theorem length_of_isDisplayString {x : List Char8} (h : isDisplayString x = true) :
    4 ≤ x.length ∧ x.length ≤ 8 := by
  obtain ⟨a, b, c, d, rfl⟩ := (display_iff x).mp h
  have hpoints : [a, b, c, d].countP Prod.snd ≤ 4 := List.countP_le_length
  rw [length_spellSlots, List.length_cons, List.length_cons, List.length_cons, List.length_singleton]
  omega

/-- Every string of the grammar decodes (R62, R100). -/
theorem exists_frame_of_isDisplayString {x : List Char8} (h : isDisplayString x = true) :
    ∃ f, decodeFrame x = some f := by
  obtain ⟨a, b, c, d, rfl⟩ := (display_iff x).mp h
  exact ⟨_, decode_slots rfl⟩

/-- The three checks leave only strings of the grammar (R62, R102 to R104). -/
theorem isDisplayString_of_checks {x : List Char8}
    (h : alphabetOk x = true ∧ countOk x = true ∧ placementOk x = true) : isDisplayString x = true := by
  obtain ⟨ha, hc, hp⟩ := h
  exact (display_iff x).mpr (slots_of_checks ha hc hp)

/-- Settles O15: a string of the grammar decodes, what decodes passes the checks, and what passes the
checks is of the grammar. -/
theorem checksAreTheGrammar : Obligations.ChecksAreTheGrammar := by
  intro x
  have hchecks : (∃ f, decodeFrame x = some f) →
      alphabetOk x = true ∧ countOk x = true ∧ placementOk x = true :=
    fun ⟨_, h⟩ => decodeFrame_checks h
  exact ⟨⟨fun h => hchecks (exists_frame_of_isDisplayString h), isDisplayString_of_checks⟩,
    ⟨exists_frame_of_isDisplayString, fun h => isDisplayString_of_checks (hchecks h)⟩,
    length_of_isDisplayString⟩

/-! ## Words -/

/-- Settles O3: each word is decoded by running the decoder on it. -/
theorem tableWordsDecode : Obligations.TableWordsDecode :=
  ⟨rfl, rfl, rfl, rfl, rfl, fun _ => rfl, fun _ => rfl, fun _ => rfl, rfl, rfl, rfl, rfl, rfl, rfl⟩

theorem mem_glyph_all (g : Glyph) : g ∈ Glyph.all := by cases g <;> decide

/-- The codes that are a row of format `CHAR8` (R60, R70). -/
def charCodes : List Char8 := pointCode :: Glyph.all.map Glyph.code

/-- A character code is an instruction exactly when it is a row's (R70). -/
theorem decode_char_ok_iff (c : Char8) : (∃ i, decode (.char8 c) = .ok i) ↔ c ∈ charCodes := by
  simp only [charCodes, List.mem_cons, List.mem_map]
  constructor
  · rintro ⟨i, h⟩
    obtain ⟨hc, -⟩ | ⟨g, hc, -⟩ := Laws.WordRoundTrip.char_cases h
    · exact .inl hc
    · exact .inr ⟨g, mem_glyph_all g, hc.symm⟩
  · rintro (rfl | ⟨g, -, rfl⟩)
    · exact ⟨.point, rfl⟩
    · exact ⟨g.instr, decode_glyph_code g⟩

/-- The rows' codes as the numbers R60 gives them. -/
theorem mem_charCodes_iff (c : Char8) : c ∈ charCodes ↔ c.toNat ∈ [0x20, 0x2E, 0x30, 0x31, 0x32, 0x33,
    0x34, 0x35, 0x36, 0x37, 0x38, 0x39, 0x45, 0x72] := by
  have hperm : (charCodes.map BitVec.toNat).Perm [0x20, 0x2E, 0x30, 0x31, 0x32, 0x33,
    0x34, 0x35, 0x36, 0x37, 0x38, 0x39, 0x45, 0x72] := by decide
  rw [← hperm.mem_iff, List.mem_map_of_injective fun _ _ => BitVec.eq_of_toNat_eq]

/-- An ENCODE word takes exactly one character (R66). -/
theorem decode_encode_operandCount {t : List Char8} (h : t.length ≠ 1) :
    decode (.op 0#2 t) = .error .operandCount := by
  match t with
  | [] => rfl
  | [_] => exact absurd rfl h
  | _ :: _ :: _ => rfl

/-- Settles O4: the character codes are the rows' own; the other words are refused by number. -/
theorem otherWordsAreRefused : Obligations.OtherWordsAreRefused :=
  ⟨fun c => (decode_char_ok_iff c).trans (mem_charCodes_iff c), fun _ => rfl,
    fun _ => decode_encode_operandCount, rfl, rfl⟩

end Sys2Proof.Machine
end

section
/-! SUPPORT. The segment encoder (`spec/40_segment_encoder.md`): the glyph rows (R82 to R94) with SCAN's
counter (R106), ENCODE (R80, R81), the default table (R96), and that no step reads element 7 of a pattern
(R95). -/

namespace Sys2Proof.Machine

/-! ## The glyph rows -/

/-- SCAN meets a glyph character right after another: the one before carries no point (R106). -/
theorem scanStep_glyph_of_one (res : List Bool) : scanStep (res, 1) false = (res ++ [false], 1) := rfl

/-- SCAN meets any other glyph character: it is counted (R106). -/
theorem scanStep_glyph_of_ne_one (res : List Bool) {n : Nat} (h : n ≠ 1) :
    scanStep (res, n) false = (res, n + 1) := by
  simp [scanStep, h]

/-- A glyph's row of the opcode table is the decode meeting that glyph (R82 to R94). -/
theorem exec_glyph_instr (g : Glyph) (s : State) : exec g.instr s = .next (glyphMet g s) := by
  cases g <;> rfl

/-- Settles O7: the 13 rows are those of the 13 glyphs, and each one is the decode meeting its glyph. -/
theorem glyphRowsOpenASlot : Obligations.GlyphRowsOpenASlot := by
  intro p hp s
  obtain ⟨g, -, rfl⟩ : ∃ g ∈ Glyph.all, (g.instr, g) = p := List.mem_map.mp hp
  refine ⟨glyphMet g s, exec_glyph_instr g s, rfl, rfl, rfl, fun h => ?_, fun h => ?_, rfl⟩
  · simp only [glyphMet, scanGlyph, h, scanStep_glyph_of_one, and_self]
  · simp only [glyphMet, scanGlyph, scanStep_glyph_of_ne_one _ h, and_self]

/-! ## ENCODE -/

/-- ENCODE of a glyph character is the table's entry for it (R80). -/
@[simp] theorem encodeChar_code (cfg : Config) (g : Glyph) :
    encodeChar cfg g.code = .pattern (encodeGlyph cfg g) := by
  simp [encodeChar]

/-- ENCODE of any other character is an error (R81). -/
theorem encodeChar_of_ne_code (cfg : Config) {c : Char8} (h : ∀ g : Glyph, c ≠ g.code) :
    encodeChar cfg c = .encodeError := by
  have hc : glyphOf c = none :=
    Option.eq_none_iff_forall_ne_some.mpr fun g hg => h g (glyphOf_eq_some.mp hg)
  simp [encodeChar, hc]

/-- Settles O10: ENCODE's result goes to the port and to no other field. -/
theorem encodeReturnsTheTablesPattern : Obligations.EncodeReturnsTheTablesPattern := fun c s =>
  ⟨{ s with ret := encodeChar s.cfg c }, rfl, fun g hg => hg ▸ encodeChar_code s.cfg g,
    encodeChar_of_ne_code s.cfg, rfl⟩

/-! ## The default table -/

/-- The packed integers of the default table are pairwise different (R96). -/
theorem packed_default_nodup :
    (Glyph.all.map fun g => packed (encodeGlyph defaultConfig g)).Nodup := by decide

/-- Two glyphs with the same default pattern are the same (R96). -/
theorem encodeGlyph_default_injective {g h : Glyph}
    (he : encodeGlyph defaultConfig g = encodeGlyph defaultConfig h) : g = h :=
  List.inj_on_of_nodup_map packed_default_nodup (mem_glyph_all g) (mem_glyph_all h) (congrArg packed he)

/-- Space is the only glyph whose default pattern is all dark (R96). -/
theorem eq_space_of_litMask_default {g : Glyph} (h : litMask (encodeGlyph defaultConfig g) = 0) :
    g = .space := by
  have dark : ∀ g ∈ Glyph.all, litMask (encodeGlyph defaultConfig g) = 0 → g = .space := by decide
  exact dark g (mem_glyph_all g) h

/-- Settles O11: the 13 rows are evaluated, and what R96 says of them follows from their numbers. -/
theorem defaultTableValues : Obligations.DefaultTableValues :=
  ⟨by decide, fun _ _ => encodeGlyph_default_injective, fun _ => eq_space_of_litMask_default⟩

/-! ## SEG_WRITE alone reads the patterns, and not their element 7 -/

/-- A line write and the advance after it do not read the frame latch's patterns, where the advance passes
them on. -/
theorem finish_setPat (s : State) (p : Vector Pattern 4) (n : Fin 12) (v : Level) {f : State → State}
    (hf : ∀ u : State, f { u with pat := p } = { f u with pat := p }) :
    (lineWrite n v { s with pat := p }).finish f = { (lineWrite n v s).finish f with pat := p } := by
  have hw : ({ s with pat := p } : State).writeFails = s.writeFails := rfl
  cases hs : s.writeFails with
  | false =>
    rw [lineWrite_ok n v hs, lineWrite_ok n v (hw.trans hs)]
    exact hf (s.wrote n v)
  | true =>
    rw [lineWrite_raised n v hs, lineWrite_raised n v (hw.trans hs)]
    rfl

theorem afterSeg_setPat (p : Vector Pattern 4) (u : State) :
    afterSeg { u with pat := p } = { afterSeg u with pat := p } := by
  unfold afterSeg
  split <;> rfl

theorem afterOff_setPat (p : Vector Pattern 4) (u : State) :
    afterOff { u with pat := p } = { afterOff u with pat := p } := by
  unfold afterOff
  split <;> rfl

/-- Whether a step kind is enabled does not depend on the frame latch (R121). -/
theorem inPhase_setPat (q : Phase) (s : State) (p : Vector Pattern 4) {f : State → State}
    (h : f { s with pat := p } = { f s with pat := p }) :
    inPhase q { s with pat := p } f = mapNext (fun t => { t with pat := p }) (inPhase q s f) := by
  unfold inPhase
  split
  · exact congrArg Host.Outcome.next h
  · rfl

/-- SEG_WRITE reads element `S` of the current pattern, and `S` is at most 6 (R123, R95). -/
theorem execSegWrite_setPat (s : State) (p : Vector Pattern 4)
    (h : (p[s.dIx])[s.sIx.val] = (s.pat[s.dIx])[s.sIx.val]) :
    execSegWrite { s with pat := p } = mapNext (fun t => { t with pat := p }) (execSegWrite s) := by
  refine inPhase_setPat .seg s p ?_
  simp only [h]
  exact finish_setPat s p _ _ (afterSeg_setPat p)

/-- The other strobe steps read no pattern (R124 to R127). -/
theorem exec_setPat_of_ne_segWrite {i : Instr} (s : State) (p : Vector Pattern 4)
    (hi : i ∈ [Instr.dpWrite, .digOn, .dwell, .digOff]) :
    exec i { s with pat := p } = mapNext (fun t => { t with pat := p }) (exec i s) := by
  simp only [List.mem_cons, List.not_mem_nil, or_false] at hi
  obtain rfl | rfl | rfl | rfl := hi
  · simp only [exec, execDpWrite]
    refine inPhase_setPat .dp s p ?_
    exact finish_setPat s p _ _ fun _ => rfl
  · simp only [exec, execDigOn]
    refine inPhase_setPat .on s p ?_
    exact finish_setPat s p _ _ fun _ => rfl
  · simp only [exec, execDwell]
    refine inPhase_setPat .dwell s p ?_
    by_cases hd : s.dw > 1 <;> simp [hd, State.record]
  · simp only [exec, execDigOff]
    refine inPhase_setPat .off s p ?_
    exact finish_setPat s p _ _ (afterOff_setPat p)

/-- Settles O41: SEG_WRITE reads an element below 7, and the other four steps read none. -/
theorem patternElementSevenIsNeverRead : Obligations.PatternElementSevenIsNeverRead := by
  intro i s p hi hagree
  obtain rfl | hother := List.mem_cons.mp hi
  · exact execSegWrite_setPat s p (hagree s.dIx s.sIx)
  · exact exec_setPat_of_ne_segWrite s p hother

end Sys2Proof.Machine
end

section
/-! SUPPORT. The decode of a display string (`spec/41_frame_decode.md`): what DECODE_FRAME returns (R100),
where the point flags come from (R105), SCAN on well-formed strings (R107), and the character rows of the
opcode table as the decode run character by character (R101 to R109). -/

namespace Sys2Proof.Machine

/-! ## The POINT row -/

/-- Settles O8: with a glyph before it the point goes to the last slot, without one only the mark of a
malformed string is set. -/
theorem pointRowMarksTheGlyphBefore : Obligations.PointRowMarksTheGlyphBefore := by
  intro s
  refine ⟨{ s with scan := scanPoint s.scan }, rfl, fun hg xs x hs => ?_, fun hg => ?_, rfl, rfl,
    rfl, rfl⟩
  · simp [scanPoint, hg, hs, pointLast_append]
  · simp [scanPoint, hg]

/-! ## Strings of characters that have a row -/

/-- The strings of characters that have a row: glyph characters and point markers (R70). -/
inductive OfRows : List Char8 → Prop
  | nil : OfRows []
  | point {r : List Char8} (h : OfRows r) : OfRows (pointCode :: r)
  | glyph (g : Glyph) {r : List Char8} (h : OfRows r) : OfRows (g.code :: r)

/-- The rows of a string are its first character's and those of the rest. -/
theorem mapM_decodeChar_cons {c : Char8} {r : List Char8} {is : List Instr}
    (h : (c :: r).mapM decodeChar = .ok is) :
    ∃ i js, decodeChar c = .ok i ∧ r.mapM decodeChar = .ok js ∧ is = i :: js := by
  rw [List.mapM_cons] at h
  cases hc : decodeChar c with
  | error e => simp [hc, bind, Except.bind] at h
  | ok i =>
    cases hr : r.mapM decodeChar with
    | error e => simp [hc, hr, bind, Except.bind] at h
    | ok js =>
      exact ⟨i, js, rfl, rfl, by
        simpa [hc, hr, bind, Except.bind, pure, Except.pure] using h.symm⟩

/-- The rows of a string decode only where each character has one. -/
theorem ofRows_of_decode {x : List Char8} {is : List Instr} (h : x.mapM decodeChar = .ok is) : OfRows x := by
  induction x generalizing is with
  | nil => exact .nil
  | cons c r ih =>
    obtain ⟨i, js, hc, hr, -⟩ := mapM_decodeChar_cons h
    obtain ⟨rfl, -⟩ | ⟨g, rfl, -⟩ := Laws.WordRoundTrip.char_cases hc
    · exact .point (ih hr)
    · exact .glyph g (ih hr)

/-- Characters that have a row are of the accepted alphabet (R103). -/
theorem OfRows.alphabetOk {x : List Char8} (h : OfRows x) : alphabetOk x = true := by
  unfold Machine.alphabetOk
  induction h with
  | nil => rfl
  | point _ ih => simpa using ih
  | glyph g _ ih => simpa using ih

/-! ## The character rows, one after another -/

/-- What the row of one character does to the decode's working variables. -/
def scanChar (cfg : Config) (k : Scan) (c : Char8) : Scan :=
  match glyphOf c with
  | some g => scanGlyph g (encodeGlyph cfg g) k
  | none => scanPoint k

@[simp] theorem scanChar_code (cfg : Config) (k : Scan) (g : Glyph) :
    scanChar cfg k g.code = scanGlyph g (encodeGlyph cfg g) k := by
  simp [scanChar]

@[simp] theorem scanChar_pointCode (cfg : Config) (k : Scan) : scanChar cfg k pointCode = scanPoint k := rfl

/-- A row acts on the working variables and on nothing else. -/
theorem exec_row {c : Char8} {i : Instr} (s : State) (h : decodeChar c = .ok i) :
    exec i s = .next { s with scan := scanChar s.cfg s.scan c } := by
  obtain ⟨rfl, rfl⟩ | ⟨g, rfl, rfl⟩ := Laws.WordRoundTrip.char_cases h
  · rfl
  · rw [exec_glyph_instr, scanChar_code]
    rfl

/-- The rows of a string take the working variables through its characters. -/
theorem execAll_rows {x : List Char8} {is : List Instr} (s : State) (h : x.mapM decodeChar = .ok is) :
    execAll is s = .next { s with scan := x.foldl (scanChar s.cfg) s.scan } := by
  induction x generalizing is s with
  | nil =>
    obtain rfl : [] = is := by simpa [pure, Except.pure] using h
    rfl
  | cons c r ih =>
    obtain ⟨i, js, hc, hr, rfl⟩ := mapM_decodeChar_cons h
    simp only [execAll, exec_row s hc]
    exact ih _ hr

/-- The slots of the glyphs of a string, each with its pattern and its point flag (R101, R105, R109). -/
def slotsOf (cfg : Config) (x : List Char8) : List Slot :=
  List.zipWith (fun g p => ⟨g, encodeGlyph cfg g, p⟩) (glyphsOf x) (pointFlags x)

@[simp] theorem slotsOf_pointCode (cfg : Config) (r : List Char8) :
    slotsOf cfg (pointCode :: r) = slotsOf cfg r := rfl

@[simp] theorem slotsOf_code (cfg : Config) (g : Glyph) (r : List Char8) :
    slotsOf cfg (g.code :: r) = ⟨g, encodeGlyph cfg g, r.head? == some pointCode⟩ :: slotsOf cfg r := by
  simp [slotsOf, glyphsOf, pointFlags]

/-- SCAN's loop over a string (R106). -/
def scanLoop (x : List Char8) (st : List Bool × Nat) : List Bool × Nat :=
  x.foldl (fun st c => scanStep st (c == pointCode)) st

@[simp] theorem scanLoop_pointCode (r : List Char8) (st : List Bool × Nat) :
    scanLoop (pointCode :: r) st = scanLoop r (scanStep st true) := rfl

@[simp] theorem scanLoop_code (g : Glyph) (r : List Char8) (st : List Bool × Nat) :
    scanLoop (g.code :: r) st = scanLoop r (scanStep st false) := by
  simp [scanLoop, beq_eq_false_iff_ne.mpr (code_ne_pointCode g)]

section rows
variable (cfg : Config) {x : List Char8} (h : OfRows x) (k : Scan)
include h

/-- The rows find the placement check's verdict (R104). -/
theorem foldl_scanChar_placed :
    (x.foldl (scanChar cfg) k).placed = (k.placed && placedAfter k.afterGlyph x) := by
  induction h generalizing k with
  | nil => simp [placedAfter]
  | point _ ih => simp [ih, scanPoint, placedAfter, Bool.and_assoc]
  | glyph g _ ih => simp [ih, scanGlyph, placedAfter]

/-- The rows move SCAN's variables as SCAN's loop does (R106). -/
theorem foldl_scanChar_scan :
    ((x.foldl (scanChar cfg) k).res, (x.foldl (scanChar cfg) k).cnt) = scanLoop x (k.res, k.cnt) := by
  induction h generalizing k with
  | nil => rfl
  | point _ ih => simp [ih, scanPoint]
  | glyph g _ ih => simp [ih, scanGlyph]

/-- The rows open the slots of the string's glyphs; a point marker that begins the string belongs to the
slot opened before it, if that one's glyph came directly before (R105). -/
theorem foldl_scanChar_slots :
    (x.foldl (scanChar cfg) k).slots =
      (if k.afterGlyph && x.head? == some pointCode then pointLast k.slots else k.slots) ++
        slotsOf cfg x := by
  induction h generalizing k with
  | nil => simp [slotsOf, glyphsOf]
  | point _ ih => simp [ih, scanPoint]
  | @glyph g r _ ih =>
    by_cases hp : r.head? = some pointCode <;> simp [ih, scanGlyph, pointLast_append, hp]

end rows

/-- There is one point flag for each glyph (R105). -/
theorem length_pointFlags (x : List Char8) : (pointFlags x).length = (glyphsOf x).length := by
  induction x with
  | nil => rfl
  | cons c r ih => cases hc : glyphOf c <;> simp_all [pointFlags, glyphsOf, isGlyph]

/-- The patterns of the slots are the glyphs' encodings (R109). -/
theorem slotsOf_map_pat (cfg : Config) (x : List Char8) :
    (slotsOf cfg x).map Slot.pat = (glyphsOf x).map (encodeGlyph cfg) := by
  refine List.ext_getElem (by simp [slotsOf, length_pointFlags]) fun i _ _ => ?_
  simp [slotsOf]

/-- The slots of a spelling are the spelled ones. -/
theorem slotsOf_spell (cfg : Config) (l : List (Glyph × Bool)) :
    slotsOf cfg (spellSlots l) = l.map fun p => ⟨p.1, encodeGlyph cfg p.1, p.2⟩ := by
  simp [slotsOf, glyphsOf_spell, pointFlags_spell, List.zipWith_map]

/-! ## The result of a decode -/

/-- A failing check is MalformedDisplayString (R100). -/
theorem decodeFrame_eq_none_of_checks {x : List Char8}
    (h : alphabetOk x = false ∨ countOk x = false ∨ placementOk x = false) : decodeFrame x = none := by
  cases hd : decodeFrame x with
  | none => rfl
  | some f =>
    obtain ⟨ha, hc, hp⟩ := decodeFrame_checks hd
    simp [ha, hc, hp] at h

/-- A finished scan has found a frame only if it opened four slots (R102). -/
theorem scanFrame_eq_none_of_length_ne {k : Scan} (h : k.slots.length ≠ 4) : scanFrame k = none := by
  unfold scanFrame
  split
  · split
    · rename_i hs
      simp [hs] at h
    · rfl
  · rfl

/-- A scan with the slots of a string and the placement check's verdict has found the string's frame. -/
theorem scanFrame_eq_decodeFrame {cfg : Config} {x : List Char8} {k : Scan} (ha : alphabetOk x = true)
    (hp : k.placed = placementOk x) (hs : k.slots = slotsOf cfg x) : scanFrame k = decodeFrame x := by
  cases hplaced : placementOk x with
  | false => rw [decodeFrame_eq_none_of_checks (.inr (.inr hplaced)), scanFrame, hp, hplaced]; rfl
  | true =>
    obtain ⟨l, rfl⟩ := exists_slots ha hplaced
    rw [slotsOf_spell] at hs
    by_cases hl : l.length = 4
    · obtain ⟨a, b, c, d, rfl⟩ : ∃ a b c d, l = [a, b, c, d] := List.length_eq_four.mp hl
      rw [decode_slots rfl, scanFrame, hp, hplaced, hs]
      rfl
    · rw [scanFrame_eq_none_of_length_ne (by simpa [hs] using hl),
        decodeFrame_eq_none_of_checks (.inr (.inl (by simpa [countOk, strip_spell] using hl)))]

/-- Settles O9: each row takes the working variables one character further; the slots it leaves, the
placement verdict and SCAN's results are those of the whole string. -/
theorem characterRowsAreTheDecode : Obligations.CharacterRowsAreTheDecode := by
  intro x is s hrows hstart
  have hx := ofRows_of_decode hrows
  have hplaced := foldl_scanChar_placed s.cfg hx Scan.start
  have hslots : (x.foldl (scanChar s.cfg) Scan.start).slots = slotsOf s.cfg x :=
    foldl_scanChar_slots s.cfg hx Scan.start
  have hres : (x.foldl (scanChar s.cfg) Scan.start).res = (scanLoop x ([], 0)).1 :=
    congrArg Prod.fst (foldl_scanChar_scan s.cfg hx Scan.start)
  refine ⟨{ s with scan := x.foldl (scanChar s.cfg) Scan.start }, hstart ▸ execAll_rows s hrows, rfl,
    scanFrame_eq_decodeFrame hx.alphabetOk hplaced hslots, ?_, ?_⟩
  · exact hslots ▸ slotsOf_map_pat s.cfg x
  · simp only [hres]
    rfl

/-- Settles O12: where the checks hold the string is a spelling of four slots, and those are the frame. -/
theorem decodeFrameReturnsDigitsAndPoints : Obligations.DecodeFrameReturnsDigitsAndPoints := by
  intro x s
  refine ⟨{ s with ret := decodeFrameRet x, scan := Scan.start }, rfl, fun ha hc hp => ?_,
    fun h => ?_, rfl, rfl⟩
  · obtain ⟨a, b, c, d, rfl⟩ := slots_of_checks ha hc hp
    refine ⟨⟨#v[a.1, b.1, c.1, d.1], #v[a.2, b.2, c.2, d.2]⟩, ?_, ?_, ?_⟩
    · simp [decodeFrameRet, decode_slots rfl]
    · rw [strip_spell]; rfl
    · rw [pointFlags_spell]; rfl
  · simp [decodeFrameRet, decodeFrame_eq_none_of_checks h]

/-! ## Where the point flags come from -/

/-- The positions of the glyph characters of a string, in order (R105). -/
def glyphPositions (x : List Char8) : List Nat :=
  (List.range x.length).filter fun j => isGlyph (x.getD j 0#8)

/-- The first character's own position, and those of the rest one further on. -/
theorem glyphPositions_cons (c : Char8) (r : List Char8) :
    glyphPositions (c :: r) = (if isGlyph c then [0] else []) ++ (glyphPositions r).map (· + 1) := by
  simp only [glyphPositions, List.length_cons, List.range_succ_eq_map, List.filter_cons, List.filter_map]
  split <;> simp_all [Function.comp_def]

/-- POINTS asks of each glyph position whether a point marker comes next (R105). -/
theorem pointFlags_eq_map_glyphPositions (x : List Char8) :
    pointFlags x = (glyphPositions x).map fun k => x[k + 1]? == some pointCode := by
  induction x with
  | nil => rfl
  | cons c r ih =>
    cases hc : isGlyph c <;> simp [pointFlags, glyphPositions_cons, hc, ih, List.head?_eq_getElem?]

/-- Settles O13: the frame's flags are POINTS, which reads them off at the glyph positions. -/
theorem pointFlagIsTheMarkerAfterTheGlyph : Obligations.PointFlagIsTheMarkerAfterTheGlyph := by
  intro x f h i
  obtain ⟨-, hflags⟩ := decodeFrame_lists h
  have hi : ((glyphPositions x).map fun k => x[k + 1]? == some pointCode)[i.val]? = some f.points[i] := by
    rw [← pointFlags_eq_map_glyphPositions, hflags]
    simp
  rw [List.getElem?_map, Option.map_eq_some_iff] at hi
  obtain ⟨k, hk, hflag⟩ := hi
  exact ⟨k, hk, (Bool.eq_iff_iff.mp hflag).symm.trans beq_iff_eq⟩

/-! ## SCAN on well-formed strings -/

/-- The flags SCAN has found, followed by those of the glyphs it still counts, none of which has had a point
so far (R106). -/
def scanned (st : List Bool × Nat) : List Bool := st.1 ++ List.replicate st.2 false

/-- SCAN over one slot, with at most one glyph counted before it (R106). -/
theorem scanLoop_slot (g : Glyph) (q : Bool) {st : List Bool × Nat} (hcnt : st.2 ≤ 1) :
    scanLoop (spellSlot g q) st = if q then (scanned st ++ [true], 0) else (scanned st, 1) := by
  obtain ⟨res, cnt⟩ := st
  obtain rfl | rfl := Nat.le_one_iff_eq_zero_or_eq_one.mp hcnt <;> cases q <;>
    simp [scanLoop, spellSlot, scanStep, scanned]

/-- Over the spelling of slots SCAN keeps at most one glyph counted, and finds the slots' flags (R106). -/
theorem scanLoop_spell (l : List (Glyph × Bool)) {st : List Bool × Nat} (hcnt : st.2 ≤ 1) :
    (scanLoop (spellSlots l) st).2 ≤ 1 ∧
      scanned (scanLoop (spellSlots l) st) = scanned st ++ l.map Prod.snd := by
  induction l generalizing st with
  | nil => simp [hcnt, scanLoop]
  | cons p l ih =>
    obtain ⟨g, q⟩ := p
    have hsplit : scanLoop (spellSlots ((g, q) :: l)) st =
        scanLoop (spellSlots l) (scanLoop (spellSlot g q) st) := List.foldl_append
    rw [hsplit, scanLoop_slot g q hcnt]
    cases q
    · simpa [scanned] using ih (st := (scanned st, 1)) (by simp)
    · simpa [scanned] using ih (st := (scanned st ++ [true], 0)) (by simp)

/-- The default of the last flag (R108) is the flag of the one glyph SCAN may still count. -/
theorem withDefault_eq_scanned {st : List Bool × Nat} (hcnt : st.2 ≤ 1) (hlen : (scanned st).length = 4) :
    (if st.1.length < 4 then st.1 ++ [false] else st.1) = scanned st := by
  obtain ⟨res, cnt⟩ := st
  obtain rfl | rfl := Nat.le_one_iff_eq_zero_or_eq_one.mp hcnt <;> simp [scanned] at hlen ⊢ <;> omega

/-- Settles O14: SCAN lacks at most the last of the four flags, and that one is the default (R107, R108). -/
theorem scanAgreesWithPoints : Obligations.ScanAgreesWithPoints := by
  intro x f h
  obtain ⟨a, b, c, d, rfl, rfl⟩ := slots_of_decode h
  obtain ⟨hcnt, hscan⟩ := scanLoop_spell [a, b, c, d] (st := ([], 0)) (by simp)
  have hflags : scanFlags (spellSlots [a, b, c, d]) = [a.2, b.2, c.2, d.2] :=
    (withDefault_eq_scanned hcnt (by rw [hscan]; rfl)).trans hscan
  exact ⟨hflags, by rw [hflags]; rfl⟩

end Sys2Proof.Machine
end

section
/-! SUPPORT. The strobe (`spec/42_strobe_fsm.md`), one step at a time: what a step runs (R121), what a step
kind does when its line write succeeds, when it fails and outside its phase (R123 to R127), the dwell
(R126), what is visible (R134), and that a run stops nowhere but in `FAULT`. -/

namespace Sys2Proof.Machine

variable {s t : State}

/-! ## What a step runs -/

/-- A render is in one of five phases, and a step runs the step kind enabled in it (R67, R121). -/
theorem step_of_busy (hr : s.resetIn = false) (hb : s.busy = true) :
    ∃ i ∈ [Instr.segWrite, .dpWrite, .digOn, .dwell, .digOff],
      stepPhase i = some s.phase ∧ decode (.phase3 s.phase.code) = .ok i ∧ step s = exec i s := by
  cases hp : s.phase with
  | idle => simp [State.busy, hp] at hb
  | fault => simp [State.busy, hp] at hb
  | seg => exact ⟨.segWrite, by simp, rfl, rfl, step_seg hr hp⟩
  | dp => exact ⟨.dpWrite, by simp, rfl, rfl, step_dp hr hp⟩
  | on => exact ⟨.digOn, by simp, rfl, rfl, step_on hr hp⟩
  | dwell => exact ⟨.dwell, by simp, rfl, rfl, step_dwell hr hp⟩
  | off => exact ⟨.digOff, by simp, rfl, rfl, step_off hr hp⟩

/-- A step runs what the fetched word decodes to (R121). -/
theorem step_of_fetch {w : Word} {i : Instr} (hr : s.resetIn = false) (hf : fetch s = some (w, t))
    (hd : decode w = .ok i) : step s = exec i t := by
  simp [step, hr, hf, hd]

/-- A fetched word that is no instruction is refused by name (R68; log 19). -/
theorem step_of_fetch_error {w : Word} {e : DecodeError} (hr : s.resetIn = false)
    (hf : fetch s = some (w, t)) (hd : decode w = .error e) : step s = .refused (refusalOf e) := by
  simp [step, hr, hf, hd]

/-- In `IDLE` the oldest call, where it is no request, is taken (log 6, log 12). -/
theorem fetch_op {n : BitVec 2} {x : List Char8} {rest : List Call} (hp : s.phase = .idle)
    (hc : s.calls = .op n x :: rest) (hn : n ≠ 2#2) :
    fetch s = some (.op n x, { s with calls := rest }) := by
  simp [fetch, hp, hc, hn]

/-- In `IDLE` a presented character is taken (log 11). -/
theorem fetch_char {c : Char8} {rest : List Call} (hp : s.phase = .idle)
    (hc : s.calls = .char c :: rest) : fetch s = some (.char8 c, { s with calls := rest }) := by
  simp [fetch, hp, hc]

/-- Settles O1, by the phase and the oldest call. -/
theorem stepRunsTheDecodedInstruction : Obligations.StepRunsTheDecodedInstruction := by
  refine ⟨fun s i hr hb hd => ?_, fun s x rest hr hp hc => step_request hr hp hc,
    fun s n x rest i hr hp hc hn hd => step_of_fetch hr (fetch_op hp hc hn) hd,
    fun s c rest i hr hp hc hd => step_of_fetch hr (fetch_char hp hc) hd⟩
  obtain ⟨j, -, -, hj, hstep⟩ := step_of_busy hr hb
  obtain rfl : j = i := Except.ok.inj (hj.symm.trans hd)
  exact hstep

/-- A code with no row is refused by the decoder (R68). -/
theorem decode_char_illegal {c : Char8} (hg : isGlyph c = false) (hc : c ≠ pointCode) :
    decode (.char8 c) = .error (.illegalCharacter c) := by
  have hnone : glyphOf c = none := by simpa [isGlyph] using hg
  simp [decode, decodeChar, hc, hnone]

/-- Settles O2: a waiting block, `FAULT`, and the three words that are no instruction. -/
theorem stepWithNothingToRun : Obligations.StepWithNothingToRun := by
  refine ⟨fun s hr hp hc => step_wait hr hp hc, fun s hr hp => step_fault hr hp,
    fun s c rest hr hp hc hg hpc => ?_, fun s x rest hr hp hc => ?_, fun s x rest hr hp hc hlen => ?_⟩
  · exact step_of_fetch_error hr (fetch_char hp hc) (decode_char_illegal hg hpc)
  · exact step_of_fetch_error hr (fetch_op hp hc (by decide)) rfl
  · exact step_of_fetch_error hr (fetch_op hp hc (by decide)) (decode_encode_operandCount hlen)

/-! ## A step kind with a line write -/

/-- How the sequencer goes on after the line write of a step kind (R123 to R125, R127). -/
def advance : Instr → State → State
  | .segWrite => afterSeg
  | .dpWrite => fun s => { s with phase := .on }
  | .digOn => fun s => { s with dw := s.cfg.dwellTicks, phase := .dwell }
  | .digOff => afterOff
  | _ => id

/-- A step kind that writes a line is that write and then its advance. -/
theorem exec_of_stepWrite {i : Instr} {n : Fin 12} {v : Level} (hp : stepPhase i = some s.phase)
    (hw : stepWrite i s = some (n, v)) : exec i s = .next ((lineWrite n v s).finish (advance i)) := by
  cases i with
  | segWrite | dpWrite | digOn | digOff =>
    obtain ⟨rfl, rfl⟩ := Prod.mk.inj (Option.some.inj hw)
    exact if_pos (Option.some.inj hp).symm
  | _ => simp [stepWrite] at hw

/-- Outside its phase a step kind is not enabled (R121; log 9). -/
theorem exec_notEnabled {i : Instr} {p : Phase} (hi : stepPhase i = some p) (hp : s.phase ≠ p) :
    exec i s = .fault .notEnabled := by
  cases i with
  | accept =>
    obtain rfl := Option.some.inj hi
    simp only [exec, execAccept]
    split
    · exact absurd ‹_› hp
    · rfl
  | segWrite | dpWrite | digOn | dwell | digOff =>
    obtain rfl := Option.some.inj hi
    exact if_neg hp
  | _ => simp [stepPhase] at hi

/-- Of the five strobe steps only DWELL writes no line (R123 to R127). -/
theorem strobe_writes {i : Instr} (hi : i ∈ [Instr.segWrite, .dpWrite, .digOn, .dwell, .digOff])
    (s : State) : i = .dwell ∨ ∃ n v, stepWrite i s = some (n, v) := by
  simp only [List.mem_cons, List.not_mem_nil, or_false] at hi
  obtain rfl | rfl | rfl | rfl | rfl := hi
  · exact .inr ⟨_, _, rfl⟩
  · exact .inr ⟨_, _, rfl⟩
  · exact .inr ⟨_, _, rfl⟩
  · exact .inl rfl
  · exact .inr ⟨_, _, rfl⟩

/-- The advances touch the sequencer's registers alone. -/
theorem sequencerOnly_advance (i : Instr) (s : State) : SequencerOnly s (advance i s) := by
  cases i with
  | segWrite => exact sequencerOnly_afterSeg s
  | digOff => exact sequencerOnly_afterOff s
  | _ => exact sequencerOnly_set

/-- The advances leave `TRACE` and what is the environment's. -/
theorem advance_environment (i : Instr) (s : State) :
    (advance i s).trace = s.trace ∧ SameCaller s (advance i s) ∧ SameAnswers s (advance i s) := by
  cases i with
  | segWrite => simp [advance, SameCaller, SameAnswers]
  | digOff => simp [advance, SameCaller, SameAnswers]
  | _ => exact ⟨rfl, ⟨rfl, rfl, rfl, rfl⟩, rfl, rfl⟩

/-- What a successful write of `v` to line `n` changes besides the sequencer's registers: that line,
`TRACE` and one answer of the collaborator (R43). -/
structure WroteOnly (n : Fin 12) (v : Level) (s t : State) : Prop where
  line : t.line n = v
  others : SameOtherLines n s t
  trace : t.trace = s.trace ++ [.w n v]
  err : t.err = s.err
  text : SameText s t
  frame : SameFrame s t
  caller : SameCaller s t
  answer : OneAnswer s t

/-- A step kind in its phase, its write not failing, writes its line and advances. -/
theorem exec_writeOk {i : Instr} {n : Fin 12} {v : Level} (hp : stepPhase i = some s.phase)
    (hw : stepWrite i s = some (n, v)) (hf : s.writeFails = false) :
    exec i s = .next (advance i (s.wrote n v)) ∧ WroteOnly n v s (advance i (s.wrote n v)) := by
  obtain ⟨text, frame, lines, err, scan⟩ := sequencerOnly_advance i (s.wrote n v)
  obtain ⟨trace, ⟨calls, ret, resetIn, -⟩, answers, draws⟩ := advance_environment i (s.wrote n v)
  have hset : (advance i (s.wrote n v)).lines = s.lines.set n v := lines
  refine ⟨by rw [exec_of_stepWrite hp hw, lineWrite_ok n v hf, Flow.ok_finish], ?_⟩
  exact {
    line := by simp [line_of_set hset], others := sameOtherLines_of_set hset, trace, err
    text := (wrote_sameText s n v).trans text, frame := (wrote_sameFrame s n v).trans frame
    caller := ⟨calls, ret, resetIn, scan⟩, answer := ⟨answers, draws⟩ }

/-- Settles O20: the write of SEG_WRITE, then its advance below 6 and at 6. -/
theorem segWriteWritesTheEncodedValue : Obligations.SegWriteWritesTheEncodedValue := by
  refine ⟨fun s hp hf => ?_, fun s hp hf => ?_, fun s hp => exec_notEnabled rfl hp⟩
  · obtain ⟨hx, w⟩ := exec_writeOk (i := .segWrite) (congrArg some hp.symm) rfl hf
    refine ⟨_, hx, w.line, w.others, w.trace, fun h => ?_, fun h => ?_, afterSeg_dIx, afterSeg_dw, w.err,
      w.text, w.frame, w.caller, w.answer⟩
    · rw [advance, afterSeg_more (s := s.wrote _ _) h]
      exact ⟨rfl, hp⟩
    · rw [advance, afterSeg_last (s := s.wrote _ _) (Nat.not_lt.mpr h.ge)]
      exact ⟨rfl, rfl⟩
  · exact ⟨_, exec_writeFailed (i := .segWrite) (congrArg some hp.symm) rfl hf, rfl, rfl, rfl⟩

/-- The level of the point line (R124): 0 is `LIT`, for a point. -/
theorem ofBool_not (b : Bool) : Level.ofBool (!b) = if b then 0#1 else 1#1 := by
  cases b <;> rfl

/-- Settles O21: the write of DP_WRITE, its level read as a number. -/
theorem dpWriteWritesTheInvertedFlag : Obligations.DpWriteWritesTheInvertedFlag := by
  refine ⟨fun s hp hf => ?_, fun s hp hf => ?_, fun s hp => exec_notEnabled rfl hp⟩ <;>
    rw [← ofBool_not]
  · obtain ⟨hx, w⟩ := exec_writeOk (i := .dpWrite) (congrArg some hp.symm) rfl hf
    exact ⟨_, hx, w.line, w.others, w.trace, rfl, ⟨rfl, rfl, rfl⟩, w.err, w.text, w.frame, w.caller,
      w.answer⟩
  · exact ⟨_, exec_writeFailed (i := .dpWrite) (congrArg some hp.symm) rfl hf, rfl, rfl, rfl⟩

/-- Settles O24: the write of DIG_OFF, then its advance below digit 3 and at digit 3. -/
theorem digOffDeactivatesTheDigit : Obligations.DigOffDeactivatesTheDigit := by
  refine ⟨fun s hp hf => ?_, fun s hp hf => ?_, fun s hp => exec_notEnabled rfl hp⟩
  · obtain ⟨hx, w⟩ := exec_writeOk (i := .digOff) (congrArg some hp.symm) rfl hf
    refine ⟨_, hx, w.line, w.others, w.trace, fun h => ?_, fun h => ?_, afterOff_sIx, afterOff_dw, w.err,
      w.text, w.frame, w.caller, w.answer⟩
    · rw [advance, afterOff_more (s := s.wrote _ _) h]
      exact ⟨rfl, rfl⟩
    · rw [advance, afterOff_last (s := s.wrote _ _) (Nat.not_lt.mpr h.ge)]
      exact ⟨rfl, rfl⟩
  · exact ⟨_, exec_writeFailed (i := .digOff) (congrArg some hp.symm) rfl hf, rfl, rfl, rfl⟩

/-! ## The dwell -/

/-- The state `j` ticks into a dwell (R126). -/
def State.ticked (s : State) (j : Nat) : State :=
  { s with trace := s.trace ++ List.replicate j .tick, dw := s.dw - j }

/-- A dwell that has more than `j` steps left, after `j` of them (R126). -/
theorem run_dwell (hp : s.phase = .dwell) (hr : s.resetIn = false) {j : Nat} (hj : j < s.dw) :
    run j s = .next (s.ticked j) := by
  induction j with
  | zero => simp [State.ticked]
  | succ j ih =>
    have hstep : step (s.ticked j) = .next (s.ticked (j + 1)) := by
      have hmore : 1 < (s.ticked j).dw := by simp only [State.ticked]; omega
      rw [step_dwell (s := s.ticked j) hr hp, execDwell_more (s := s.ticked j) hp hmore]
      simp [State.ticked, State.record, List.replicate_succ', Nat.sub_sub]
    rw [run_add j 1 (ih (by omega)), run_succ 0 hstep, run_zero]

/-- A whole dwell (R126): the last tick ends it. -/
theorem run_dwell_whole (hp : s.phase = .dwell) (hr : s.resetIn = false) {k : Nat} (hk : s.dw = k + 1) :
    run (k + 1) s = .next { s.ticked (k + 1) with phase := .off } := by
  have hstep : step (s.ticked k) = .next { s.ticked (k + 1) with phase := .off } := by
    have hlast : (s.ticked k).dw ≤ 1 := by simp only [State.ticked]; omega
    rw [step_dwell (s := s.ticked k) hr hp, execDwell_last (s := s.ticked k) hp hlast]
    simp [State.ticked, State.record, List.replicate_succ', hk]
  rw [run_add k 1 (run_dwell hp hr (by omega)), run_succ 0 hstep, run_zero]

/-- Settles O23: one tick, not the last and the last, and the dwell by induction on its ticks. -/
theorem dwellTicksAndCounts : Obligations.DwellTicksAndCounts := by
  refine ⟨fun s hp => ?_, fun s hp => exec_notEnabled rfl hp, fun s k hp hr hk => ⟨fun j hj => ?_, ?_⟩⟩
  · by_cases hd : 1 < s.dw
    · exact ⟨_, execDwell_more hp hd, rfl, fun _ => ⟨rfl, hp⟩, fun h => absurd hd (Nat.not_lt.mpr h),
        fun _ => rfl, rfl, rfl, rfl, ⟨rfl, rfl, rfl⟩, ⟨rfl, rfl, rfl⟩, ⟨rfl, rfl, rfl, rfl⟩, rfl, rfl⟩
    · exact ⟨_, execDwell_last hp (Nat.not_lt.mp hd), rfl, fun h => absurd h hd, fun _ => ⟨rfl, rfl⟩,
        fun _ => rfl, rfl, rfl, rfl, ⟨rfl, rfl, rfl⟩, ⟨rfl, rfl, rfl⟩, ⟨rfl, rfl, rfl, rfl⟩, rfl, rfl⟩
  · exact run_dwell hp hr (by omega)
  · rw [run_dwell_whole hp hr hk, State.ticked, hk, Nat.sub_self]

/-! ## What is visible -/

/-- A line at the inverted flag is `LIT` exactly for a point (R124, R11). -/
theorem ofBool_not_beq_lit (b : Bool) : (Level.ofBool (!b) == Level.lit) = b := by
  cases b <;> rfl

/-- Settles O36: the digit lines, then the lines of the lit digit. -/
theorem onlyTheCurrentDigitIsVisible : Obligations.OnlyTheCurrentDigitIsVisible := by
  intro s h
  refine ⟨fun hp => ?_, fun h1 h2 h3 d => if_neg (h.dark h1 h2 h3 d)⟩
  have afterPoint : s.phase.afterPoint := .inr hp
  refine ⟨?_, fun d hd => if_neg fun ha => hd (h.oneActive d ha)⟩
  simp only [State.visible, h.lit hp, if_true, shownDigit, h.segs (.inr afterPoint), h.point afterPoint,
    ofBool_not_beq_lit]

/-- Lines that stay show the same (R126). -/
theorem visible_of_sequencerOnly (q : SequencerOnly s t) (d : Fin 4) : t.visible d = s.visible d := by
  have dig : t.dig d = s.dig d := line_of_lines_eq q.lines _
  have seg : t.seg = s.seg := funext fun i => line_of_lines_eq q.lines _
  have dpl : t.dpl = s.dpl := line_of_lines_eq q.lines _
  have active : t.active = s.active := congrArg Config.digActive q.text.1
  rw [State.visible, State.visible, dig, seg, dpl, active]

theorem sequencerOnly_ticked (s : State) (j : Nat) : SequencerOnly s (s.ticked j) :=
  ⟨⟨rfl, rfl, rfl⟩, ⟨rfl, rfl, rfl⟩, rfl, rfl, rfl⟩

/-- Throughout a dwell, to the end of its last step, what is visible stays (R125, R126). -/
theorem run_dwell_visible (hp : s.phase = .dwell) (hr : s.resetIn = false) (h1 : 1 ≤ s.dw) {j : Nat}
    (hj : j ≤ s.dw) (d : Fin 4) : ∃ u, run j s = .next u ∧ u.visible d = s.visible d := by
  by_cases hlt : j < s.dw
  · exact ⟨_, run_dwell hp hr hlt, visible_of_sequencerOnly (sequencerOnly_ticked s j) d⟩
  · obtain ⟨k, rfl⟩ : ∃ k, j = k + 1 := ⟨j - 1, by omega⟩
    exact ⟨_, run_dwell_whole hp hr (by omega),
      visible_of_sequencerOnly ((sequencerOnly_ticked s (k + 1)).trans sequencerOnly_set) d⟩

/-- Settles O22: the write of DIG_ON starts a dwell in a state that meets the invariant, and what is visible
there stays to the dwell's end. -/
theorem digOnActivatesTheDigit : Obligations.DigOnActivatesTheDigit := by
  refine ⟨fun s hp hf => ?_, fun s hp hf => ?_, fun s hp => exec_notEnabled rfl hp⟩
  · obtain ⟨hx, w⟩ := exec_writeOk (i := .digOn) (congrArg some hp.symm) rfl hf
    refine ⟨_, hx, w.line, w.others, w.trace, rfl, rfl, rfl, rfl, w.err, w.text, w.frame, w.caller,
      w.answer, fun h hr j hj => ?_⟩
    obtain ⟨hshown, -⟩ := (onlyTheCurrentDigitIsVisible _ (h.digOn hx)).1 (.inl rfl)
    obtain ⟨u, hu, hvisible⟩ :=
      run_dwell_visible (s := advance .digOn (s.wrote _ _)) rfl hr h.params.1 hj s.dIx
    exact ⟨u, hu, hvisible.trans hshown⟩
  · exact ⟨_, exec_writeFailed (i := .digOn) (congrArg some hp.symm) rfl hf, rfl, rfl, rfl, rfl⟩

/-! ## What the caller presents -/

theorem advance_setCalls (i : Instr) (cs : List Call) (u : State) :
    advance i { u with calls := cs } = { advance i u with calls := cs } := by
  cases i with
  | segWrite =>
    simp only [advance, afterSeg]
    split <;> rfl
  | digOff =>
    simp only [advance, afterOff]
    split <;> rfl
  | _ => rfl

/-- No strobe step reads the caller's calls (R129). -/
theorem exec_setCalls {i : Instr} (hi : i ∈ [Instr.segWrite, .dpWrite, .digOn, .dwell, .digOff])
    (hp : stepPhase i = some s.phase) (cs : List Call) :
    exec i { s with calls := cs } = mapNext (fun t => { t with calls := cs }) (exec i s) := by
  obtain rfl | ⟨n, v, hw⟩ := strobe_writes hi s
  · have hp' : s.phase = .dwell := (Option.some.inj hp).symm
    by_cases hd : 1 < s.dw
    · rw [execDwell_more hp' hd, execDwell_more (s := { s with calls := cs }) hp' hd]
      rfl
    · have hd' : s.dw ≤ 1 := Nat.not_lt.mp hd
      rw [execDwell_last hp' hd', execDwell_last (s := { s with calls := cs }) hp' hd']
      rfl
  · have hw' : stepWrite i { s with calls := cs } = some (n, v) := by rw [← hw]; cases i <;> rfl
    have hf : ({ s with calls := cs } : State).writeFails = s.writeFails := rfl
    rw [exec_of_stepWrite hp hw, exec_of_stepWrite (s := { s with calls := cs }) hp hw']
    cases hs : s.writeFails with
    | false =>
      rw [lineWrite_ok n v hs, lineWrite_ok n v (hf.trans hs)]
      exact congrArg Host.Outcome.next (advance_setCalls i cs (s.wrote n v))
    | true =>
      rw [lineWrite_raised n v hs, lineWrite_raised n v (hf.trans hs)]
      rfl

/-- Settles O39: a step of a render runs a strobe step, which does not read the calls, and takes none. -/
theorem pendingCallsDoNotReachARender : Obligations.PendingCallsDoNotReachARender := by
  intro s cs hb hr
  obtain ⟨i, hi, hp, hd, hx⟩ := step_of_busy hr hb
  refine ⟨?_, fun t ht => ?_⟩
  · rw [hx, stepRunsTheDecodedInstruction.1 { s with calls := cs } i hr hb hd]
    exact exec_setCalls hi hp cs
  · obtain hc | ⟨hidle, -⟩ := step_calls ht
    · exact hc
    · simp [State.busy, hidle] at hb

/-! ## Where a run stops -/

/-- Every step of a render answers (R129). -/
theorem step_next_of_busy (hr : s.resetIn = false) (hb : s.busy = true) : ∃ t, step s = .next t := by
  obtain ⟨i, hi, hp, -, hx⟩ := step_of_busy hr hb
  rw [hx]
  obtain rfl | ⟨n, v, hw⟩ := strobe_writes hi s
  · exact ⟨_, if_pos (Option.some.inj hp).symm⟩
  · exact ⟨_, exec_of_stepWrite hp hw⟩

/-- A call that is an operation of R66. -/
def Call.IsOperation (c : Call) : Prop := ∃ n x i, c = .op n x ∧ decode (.op n x) = .ok i

/-- A step in `IDLE` answers where operations are all that is presented. -/
theorem step_next_of_idle (hr : s.resetIn = false) (hp : s.phase = .idle)
    (hcalls : ∀ c ∈ s.calls, c.IsOperation) : ∃ t, step s = .next t := by
  cases hc : s.calls with
  | nil => exact ⟨s, step_wait hr hp hc⟩
  | cons c rest =>
    obtain ⟨n, x, i, rfl, hd⟩ := hcalls c (by simp [hc])
    by_cases hn : n = 2#2
    · subst hn
      exact ⟨_, (step_request hr hp hc).trans (execAccept_request hp hc)⟩
    · rw [step_of_fetch hr (fetch_op hp hc hn) hd]
      obtain ⟨c, -, -, rfl⟩ | ⟨-, rfl⟩ | ⟨h2, -⟩ := Laws.WordRoundTrip.op_cases hd
      · exact ⟨_, rfl⟩
      · exact ⟨_, rfl⟩
      · exact absurd h2 hn

/-- A run presents operations only (R183). -/
theorem Reachable.calls_are_operations (h : Reachable s) : ∀ c ∈ s.calls, c.IsOperation := by
  induction h with
  | reset h => simp [h.calls]
  | step _ hs ih =>
    intro c hc
    obtain he | ⟨-, d, he⟩ := step_calls hs
    · exact ih c (he ▸ hc)
    · exact ih c (he ▸ List.mem_cons_of_mem d hc)
  | env _ he ih =>
    cases he with
    | present n x i hd => exact fun c hc => ⟨n, x, i, List.mem_singleton.mp hc, hd⟩
    | answer => exact ih
    | askReset => exact ih

/-- Settles O47: a reset, a render and `IDLE` with operations presented each have a step. -/
theorem runsStopOnlyInFault : Obligations.RunsStopOnlyInFault := by
  intro s h
  cases hr : s.resetIn with
  | true => exact .inl ⟨_, step_reset hr⟩
  | false =>
    by_cases hf : s.phase = .fault
    · exact .inr ⟨hf, rfl, step_fault hr hf⟩
    · refine .inl ?_
      by_cases hi : s.phase = .idle
      · exact step_next_of_idle hr hi h.calls_are_operations
      · exact step_next_of_busy hr (by simp [State.busy, hi, hf])

end Sys2Proof.Machine
end

section
/-! SUPPORT. ACCEPT and RENDER as one instruction (`spec/42_strobe_fsm.md` R120, R122, R128, R130, R133),
and the texts the source's callers pass (R135). -/

namespace Sys2Proof.Machine

variable {s t : State}

/-! ## The callers' texts -/

theorem digitCell_eq_code (k : Fin 10) : digitCell k = (digitGlyph k).code := by
  revert k
  decide

/-- Settles O17: each text is the spelling of four slots. -/
theorem callerTextsAreWellFormed : Obligations.CallerTextsAreWellFormed := by
  intro x f h
  cases h with
  | plain a b c d =>
    simp only [digitCell_eq_code]
    exact decode_slots (l := [(digitGlyph a, false), (digitGlyph b, false), (digitGlyph c, false),
      (digitGlyph d, false)]) rfl
  | point a b c d =>
    simp only [digitCell_eq_code]
    exact decode_slots (l := [(digitGlyph a, false), (digitGlyph b, true), (digitGlyph c, false),
      (digitGlyph d, false)]) rfl
  | points a b c d =>
    simp only [digitCell_eq_code]
    exact decode_slots (l := [(digitGlyph a, false), (digitGlyph b, true), (digitGlyph c, false),
      (digitGlyph d, true)]) rfl
  | overflow =>
    exact decode_slots (l := [(.letterE, false), (.letterR, false), (.letterR, true), (.d0, false)]) rfl

/-! ## ACCEPT -/

/-- Both outcomes of ACCEPT latch the text (R122, R21). -/
theorem acceptText_textLatched (s : State) (x : List Char8) : TextLatched x s (s.acceptText x) := by
  have latched : TextLatched x s (s.latchText x) := by
    unfold TextLatched State.latchText
    split <;> simp
  cases hx : decodeFrame x with
  | none => rw [acceptText_malformed hx]; exact latched
  | some f => rw [acceptText_ok hx]; exact latched

/-- What ACCEPT leaves in both its outcomes, the calls aside: the dwell counter, the lines, `TRACE` and what
is the environment's (R122). -/
theorem acceptText_leaves (s : State) (x : List Char8) :
    (s.acceptText x).dw = s.dw ∧ SameLines s (s.acceptText x) ∧ SameAnswers s (s.acceptText x) ∧
      (s.acceptText x).ret = s.ret ∧ (s.acceptText x).resetIn = s.resetIn := by
  refine ⟨?_, line_of_lines_eq (acceptText_lines s x), ?_⟩ <;>
    cases hx : decodeFrame x <;> simp [acceptText_malformed, acceptText_ok, hx, SameAnswers]

/-- A refusal leaves the counters and the phase (R122, R156). -/
theorem acceptText_refused {x : List Char8} (hx : decodeFrame x = none) :
    (s.acceptText x).err = .malformedDisplayString ∧ (s.acceptText x).phase = s.phase ∧
      SameCounters s (s.acceptText x) := by
  simp [acceptText_malformed hx, SameCounters]

/-- ACCEPT is enabled by a presented request alone (R122). -/
theorem execAccept_notEnabled (h : ∀ x rest, s.calls ≠ .op 2#2 x :: rest) :
    exec .accept s = .fault .notEnabled := by
  simp only [exec, execAccept]
  split
  · rename_i x rest _ hc
    exact absurd hc (h x rest)
  · rfl

/-- Settles O18: the two outcomes of ACCEPT, its two enabling conditions, and that no other instruction sets
`ERR` to anything but HardwareIOFailure. -/
theorem acceptLatchesOrRefuses : Obligations.AcceptLatchesOrRefuses := by
  refine ⟨fun s x rest f hp hc hx => ?_, fun s x rest hp hc hx => ?_, fun s hp => exec_notEnabled rfl hp,
    fun s hc => execAccept_notEnabled hc, fun i s t h hs ht => ?_⟩
  · have latched := acceptText_textLatched { s with calls := rest } x
    obtain ⟨hdw, hl, ha, hret, hreset⟩ := acceptText_leaves { s with calls := rest } x
    refine ⟨_, execAccept_request hp hc, latched, fun i => ?_, ?_, ?_, ?_, ?_, hdw, hl,
      acceptText_trace _ x, ha, acceptText_calls _ x, acceptText_cfg _ x, hret, hreset,
      acceptText_scan _ x⟩ <;> rw [acceptText_ok hx]
    simp
  · have latched := acceptText_textLatched { s with calls := rest } x
    obtain ⟨-, hl, ha, hret, hreset⟩ := acceptText_leaves { s with calls := rest } x
    obtain ⟨herr, hphase, hcounters⟩ := acceptText_refused (s := { s with calls := rest }) hx
    exact ⟨_, execAccept_request hp hc, latched, herr, hphase.trans hp, hcounters,
      acceptText_sameFrame hx, hl, acceptText_trace _ x, ha, acceptText_calls _ x, acceptText_cfg _ x,
      hret, hreset, acceptText_scan _ x⟩
  · by_cases hi : i = .accept ∨ ∃ x, i = .render x
    · exact hi
    · simp only [not_or, not_exists] at hi
      obtain he | ⟨he, -⟩ := (exec_leavesLatches hi.1 hi.2 h).err
      · exact absurd (he.symm.trans ht) hs
      · simp [ht] at he

/-! ## RENDER -/

/-- The end of a render (R133). -/
def State.ended (s : State) : State := { s with phase := .idle, dIx := 0, sIx := 0 }

/-- RENDER of a well-formed text is ACCEPT and then the loop (R120). -/
theorem renderText_ok {x : List Char8} {f : Frame} (hx : decodeFrame x = some f) (s : State) :
    renderText x s = (renderSlots f (List.finRange 4) (s.acceptText x)).finish State.ended := by
  unfold renderText
  rw [hx]
  rfl

theorem renderText_malformed {x : List Char8} (hx : decodeFrame x = none) (s : State) :
    renderText x s = s.acceptText x := by
  simp only [renderText, hx]

theorem execRender_idle {x : List Char8} (hp : s.phase = .idle) :
    exec (.render x) s = .next (renderText x s) := if_pos hp

/-- Settles O28: RENDER of a malformed text is ACCEPT's refusal. -/
theorem renderRefusals : Obligations.RenderRefusals := by
  refine ⟨fun s x hp hx => ?_, fun s x hp => if_neg hp⟩
  obtain ⟨-, hl, ha, hret, hreset⟩ := acceptText_leaves s x
  obtain ⟨herr, hphase, hcounters⟩ := acceptText_refused (s := s) hx
  rw [execRender_idle hp, renderText_malformed hx]
  exact ⟨_, rfl, herr, hphase.trans hp, hl, acceptText_trace s x, acceptText_sameFrame hx, hcounters, ha,
    acceptText_textLatched s x, acceptText_cfg s x, acceptText_calls s x, hret, hreset,
    acceptText_scan s x⟩

theorem renderSlots_cons (f : Frame) (d : Fin 4) (rest : List (Fin 4)) (s : State) :
    renderSlots f (d :: rest) s = (renderSlot f d s).andThen (renderSlots f rest) := rfl

/-- The segment lines, the point line and `DW` are as at the end of digit `d`'s slot (R133). -/
structure SlotWritten (f : Frame) (d : Fin 4) (s t : State) : Prop where
  segs : ∀ i : Fin 7, t.seg i = (encodeGlyph s.cfg f.digits[d])[i.val]
  point : t.dpl = Level.ofBool (!f.points[d])
  dw : t.dw = 0

/-- The loop of R120 over any digits where no write fails: their events one after another, their digit lines
dark in the end, the segment and point lines those of the last (R128). -/
theorem renderSlots_next {f : Frame} (l : List (Fin 4)) {s : State} (h : NoWriteFails (10 * l.length) s) :
    ∃ v, renderSlots f l s = .ok v ∧ AfterWrites (10 * l.length) s v ∧
      v.trace = s.trace ++ l.flatMap (slotTrace s.cfg f) ∧ (∀ d ∈ l, v.dig d = s.inactive) ∧
      (∀ d, d ∉ l → v.dig d = s.dig d) ∧ ∀ d ∈ l.getLast?, SlotWritten f d s v := by
  induction l generalizing s with
  | nil => exact ⟨s, rfl, by constructor <;> simp, by simp, by simp, by simp, by simp⟩
  | cons d rest ih =>
    have hlen : 10 * (d :: rest).length = 10 + 10 * rest.length := by rw [List.length_cons]; omega
    rw [hlen] at h ⊢
    obtain ⟨u, hu, hkept, htrace, hseg, hdpl, hdig, hother, hdw, -⟩ :=
      renderSlot_next (f := f) (d := d) (noWriteFails_mono h)
    obtain ⟨v, hv, hkept', htrace', hdark', hother', hlast'⟩ := ih (noWriteFails_after h hkept)
    have hinactive : u.inactive = s.inactive := by rw [State.inactive, State.inactive, hkept.cfg]
    refine ⟨v, by rw [renderSlots_cons, hu, Flow.ok_andThen, hv], hkept.trans hkept', ?_, ?_, ?_, ?_⟩
    · rw [htrace', htrace, hkept.cfg, List.flatMap_cons, List.append_assoc]
    · intro e he
      by_cases hr : e ∈ rest
      · rw [hdark' e hr, hinactive]
      · obtain rfl : e = d := (List.mem_cons.mp he).resolve_right hr
        rw [hother' e hr, hdig]
    · intro e he
      obtain ⟨hne, hr⟩ : e ≠ d ∧ e ∉ rest := by simpa using he
      rw [hother' e hr, hother e hne]
    · intro e he
      cases rest with
      | nil =>
        obtain rfl : d = e := by simpa using he
        cases hv
        exact ⟨hseg, hdpl, hdw⟩
      | cons e' rest =>
        obtain ⟨hs, hp, hw⟩ := hlast' e (by simpa [List.getLast?_cons_cons] using he)
        exact ⟨by simpa only [hkept.cfg] using hs, hp, hw⟩

/-- The whole loop on an accepted text where no write fails (R128, R133). -/
theorem renderSlots_done {x : List Char8} {f : Frame} (hx : decodeFrame x = some f)
    (h : NoWriteFails 40 s) :
    ∃ v, renderSlots f (List.finRange 4) (s.acceptText x) = .ok v ∧ RenderDone f s v.ended ∧
      AfterWrites 40 (s.acceptText x) v := by
  have h' : NoWriteFails 40 (s.acceptText x) := by
    obtain ⟨-, -, ⟨ha, -⟩, -⟩ := acceptText_leaves s x
    simpa only [NoWriteFails, acceptText_cfg, ha] using h
  obtain ⟨v, hv, hkept, htrace, hdark, -, hlast⟩ := renderSlots_next (f := f) (List.finRange 4) h'
  obtain ⟨hsegs, hpoint, hdw⟩ := hlast 3 (by decide)
  obtain ⟨-, -, ⟨hanswers, hdraws⟩, -⟩ := acceptText_leaves s x
  replace hkept : AfterWrites 40 (s.acceptText x) v := hkept
  have hcfg : v.cfg = s.cfg := hkept.cfg.trans (acceptText_cfg s x)
  have hpat : v.pat = perDigit (encodeGlyph s.cfg) f := by rw [hkept.pat, acceptText_ok hx]; simp
  have hpt : v.pt = f.points := by rw [hkept.pt, acceptText_ok hx]; rfl
  refine ⟨v, hv, ?_, hkept⟩
  exact {
    trace := by rw [← acceptText_trace s x, ← acceptText_cfg s x]; exact htrace
    phase := rfl
    counters := ⟨rfl, rfl, hdw⟩
    err := by show v.err = _; rw [hkept.err, acceptText_ok hx]
    dark := fun d => by
      show v.dig d = ~~~v.cfg.digActive
      rw [hdark d (List.mem_finRange d), State.inactive, hkept.cfg]
    segs := fun i => by
      show v.seg i = (v.pat[3])[i.val]
      rw [hsegs i, hpat, acceptText_cfg, perDigit_getElem]; rfl
    point := by show v.dpl = Level.ofBool (!v.pt[3]); rw [hpoint, hpt]; rfl
    glyphs := by show v.ch = _; rw [hkept.ch, acceptText_ok hx]; rfl
    patterns := hpat
    points := hpt
    params := hcfg
    writes := ⟨hkept.ans.trans (by rw [hanswers]), hkept.draws.trans (by rw [hdraws])⟩ }

/-- TEXT and TLEN are all `TextLatched` speaks of. -/
theorem TextLatched.of_same {x : List Char8} {u : State} (h : TextLatched x s t) (htext : u.text = t.text)
    (htlen : u.tlen = t.tlen) : TextLatched x s u := by
  simpa only [TextLatched, htext, htlen] using h

/-- Settles O27: ACCEPT, then the loop over the four digits. -/
theorem renderPerformsTheLoop : Obligations.RenderPerformsTheLoop := by
  intro s x f _ hp hx h
  obtain ⟨v, hv, hdone, hkept⟩ := renderSlots_done hx h
  obtain ⟨-, -, -, hret, hreset⟩ := acceptText_leaves s x
  rw [execRender_idle hp, renderText_ok hx, hv]
  exact ⟨v.ended, rfl, hdone, (acceptText_textLatched s x).of_same hkept.text hkept.tlen,
    hkept.calls.trans (acceptText_calls s x), hkept.ret.trans hret, hkept.resetIn.trans hreset,
    hkept.scan.trans (acceptText_scan s x)⟩

end Sys2Proof.Machine
end

section
/-! SUPPORT. The step rules as RENDER's loop cut into steps (`spec/42_strobe_fsm.md` R120): from each point of
the loop the steps follow its flow, failed writes included; and the end of every render within the steps of
one (R129). -/

namespace Sys2Proof.Machine

variable {s t : State}

/-! ## Steps that follow a flow -/

/-- The steps from `s` follow the flow `x` of a part of RENDER's loop: where it goes on to `v` the machine is
in `f v` after exactly `m` steps, and where it raised it is in the state raised, after at most `m`. -/
def Follows (m : Nat) (s : State) (x : Flow) (f : State → State) : Prop :=
  match x with
  | .ok v => run m s = .next (f v)
  | .raised v => ∃ k ≤ m, run k s = .next v

/-- Following one part of the loop and then the next is following both. -/
theorem Follows.andThen {m n : Nat} {x : Flow} {f g : State → State} {next : State → Flow}
    (h : Follows m s x f) (hnext : ∀ v, x = .ok v → Follows n (f v) (next v) g) :
    Follows (m + n) s (x.andThen next) g := by
  cases x with
  | raised v =>
    obtain ⟨k, hk, hrun⟩ := h
    exact ⟨k, by omega, hrun⟩
  | ok v =>
    have hv := hnext v rfl
    rw [Flow.ok_andThen]
    cases hx : next v with
    | ok w =>
      rw [hx] at hv
      exact (run_add m n h).trans hv
    | raised w =>
      rw [hx] at hv
      obtain ⟨k, hk, hrun⟩ := hv
      exact ⟨m + k, by omega, (run_add m k h).trans hrun⟩

/-- Steps before the first of a part of the loop. -/
theorem Follows.after_run {m n : Nat} {x : Flow} {f : State → State} (hrun : run m s = .next t)
    (h : Follows n t x f) : Follows (m + n) s x f :=
  Follows.andThen (x := .ok t) (f := id) hrun fun _ hv => Flow.ok.inj hv ▸ h

/-- Where a whole loop was followed the machine gets to the state the loop ends in. -/
theorem Follows.finish {m : Nat} {x : Flow} {f : State → State} (h : Follows m s x f) :
    ∃ k ≤ m, run k s = .next (x.finish f) := by
  cases x with
  | ok v => exact ⟨m, Nat.le_refl m, h⟩
  | raised v => exact h

/-- The loop's state `v` as the sequencer has it in phase `p`: the loop has no phase (R120). -/
def State.atPhase (v : State) (p : Phase) : State := { v with phase := p }

/-- One step follows one line write of the loop, whatever the collaborator answers: the failed write ends in
the same state whatever the phase was (R157). -/
theorem follows_write {p : Phase} {i : Instr} {n : Fin 12} {l : Level} (v : State)
    (hstep : step (v.atPhase p) = exec i (v.atPhase p)) (hp : stepPhase i = some p)
    (hw : stepWrite i (v.atPhase p) = some (n, l)) :
    Follows 1 (v.atPhase p) (lineWrite n l v) fun w => advance i (w.atPhase p) := by
  have hexec := exec_of_stepWrite (s := v.atPhase p) hp hw
  have hf : (v.atPhase p).writeFails = v.writeFails := rfl
  cases hv : v.writeFails with
  | false =>
    rw [lineWrite_ok n l (hf.trans hv)] at hexec
    rw [lineWrite_ok n l hv]
    exact run_succ 0 (hstep.trans hexec)
  | true =>
    rw [lineWrite_raised n l (hf.trans hv)] at hexec
    rw [lineWrite_raised n l hv]
    exact ⟨1, Nat.le_refl 1, run_succ 0 (hstep.trans hexec)⟩

/-! ## One slot -/

/-- A state of a render of `f`, as the loop and the steps read it: the frame latch holds `f` and no reset
is asked for. -/
structure Rendering (f : Frame) (s : State) : Prop where
  pat : s.pat = perDigit (encodeGlyph s.cfg) f
  pt : s.pt = f.points
  ticks : 1 ≤ s.cfg.dwellTicks
  resetIn : s.resetIn = false

/-- What a part of the loop leaves: all that the rest of it reads. -/
structure LoopKeeps (s t : State) : Prop where
  cfg : t.cfg = s.cfg
  pat : t.pat = s.pat
  pt : t.pt = s.pt
  resetIn : t.resetIn = s.resetIn
  dIx : t.dIx = s.dIx

/-- The patterns the steps read are those the loop encodes (R109, R120). -/
theorem Rendering.pattern {f : Frame} (h : Rendering f s) (d : Fin 4) :
    s.pat[d] = encodeGlyph s.cfg f.digits[d] := by
  rw [h.pat]
  exact perDigit_getElem _ f d d.isLt

theorem LoopKeeps.trans {u : State} (h : LoopKeeps s t) (g : LoopKeeps t u) : LoopKeeps s u :=
  ⟨g.cfg.trans h.cfg, g.pat.trans h.pat, g.pt.trans h.pt, g.resetIn.trans h.resetIn, g.dIx.trans h.dIx⟩

theorem LoopKeeps.rendering {f : Frame} (h : LoopKeeps s t) (hr : Rendering f s) : Rendering f t where
  pat := by rw [h.pat, h.cfg, hr.pat]
  pt := h.pt.trans hr.pt
  ticks := h.cfg ▸ hr.ticks
  resetIn := h.resetIn.trans hr.resetIn

theorem eq_wrote_of_lineWrite {n : Fin 12} {l : Level} {v : State} (h : lineWrite n l s = .ok v) :
    v = s.wrote n l := by
  obtain ⟨-, hw⟩ | ⟨-, hw⟩ := lineWrite_cases n l s
  · exact Flow.ok.inj (h.symm.trans hw)
  · cases hw.symm.trans h

theorem lineWrite_keeps {n : Fin 12} {l : Level} {v : State} (h : lineWrite n l s = .ok v) :
    LoopKeeps s v := by
  obtain rfl := eq_wrote_of_lineWrite h
  exact ⟨rfl, rfl, rfl, rfl, rfl⟩

/-- A part of the loop that went on was followed by the rest of it. -/
theorem Flow.andThen_eq_ok {x : Flow} {g : State → Flow} {v : State} (h : x.andThen g = .ok v) :
    ∃ u, x = .ok u ∧ g u = .ok v := by
  cases x with
  | ok u => exact ⟨u, rfl, h⟩
  | raised u => cases h

theorem renderSegs_keeps {p : Pattern} {l : List (Fin 7)} {v : State} (h : renderSegs p l s = .ok v) :
    LoopKeeps s v := by
  induction l generalizing s with
  | nil =>
    obtain rfl := Flow.ok.inj h
    exact ⟨rfl, rfl, rfl, rfl, rfl⟩
  | cons i rest ih =>
    obtain ⟨u, hu, hrest⟩ := Flow.andThen_eq_ok h
    have hs : LoopKeeps s { s with sIx := i } := ⟨rfl, rfl, rfl, rfl, rfl⟩
    exact (hs.trans (lineWrite_keeps hu)).trans (ih hrest)

/-- The loop's variable `S` is set by each write anew. -/
theorem renderSegs_setS (p : Pattern) {l : List (Fin 7)} (hl : l ≠ []) (s : State) (i : Fin 7) :
    renderSegs p l { s with sIx := i } = renderSegs p l s := by
  cases l with
  | nil => exact absurd rfl hl
  | cons j rest => rfl

theorem drop_finRange_seven (i : Fin 7) :
    (List.finRange 7).drop i.val = i :: (List.finRange 7).drop (i.val + 1) := by
  revert i
  decide

/-- The segment writes from `S` on, one a step (R123). -/
theorem renderSegs_follows {n : Nat} {v : State} (hr : v.resetIn = false) (hn : v.sIx.val + n = 6) :
    Follows (1 + n) (v.atPhase .seg) (renderSegs v.pat[v.dIx] ((List.finRange 7).drop v.sIx.val) v)
      (State.atPhase · .dp) := by
  induction n generalizing v with
  | zero =>
    have hlast : (List.finRange 7).drop (v.sIx.val + 1) = [] := List.drop_eq_nil_iff.mpr (by simp; omega)
    rw [drop_finRange_seven, renderSegs_cons, hlast]
    refine (follows_write (i := .segWrite) (p := .seg) v (step_seg hr rfl) rfl rfl).andThen fun w hw => ?_
    obtain rfl := eq_wrote_of_lineWrite hw
    exact congrArg Host.Outcome.next
      (afterSeg_last (s := (v.wrote _ _).atPhase .seg) (Nat.not_lt.mpr hn.ge))
  | succ n ih =>
    have hmore : v.sIx.val < 6 := by omega
    have hne : (List.finRange 7).drop (v.sIx.val + 1) ≠ [] := by simp; omega
    rw [drop_finRange_seven, renderSegs_cons, Nat.add_comm n 1]
    refine (follows_write (i := .segWrite) (p := .seg) v (step_seg hr rfl) rfl rfl).andThen fun w hw => ?_
    obtain rfl := eq_wrote_of_lineWrite hw
    rw [advance, afterSeg_more (s := (v.wrote _ _).atPhase .seg) hmore,
      ← renderSegs_setS _ hne _ ⟨v.sIx.val + 1, by omega⟩]
    exact ih (v := { v.wrote _ _ with sIx := ⟨v.sIx.val + 1, by omega⟩ }) hr (by simp; omega)

/-- The sequencer at the beginning of digit `d`'s slot, where the loop's state is `v`. -/
def State.atSlot (v : State) (d : Fin 4) : State := { v with phase := .seg, dIx := d, sIx := 0 }

/-- The dwell from the end of DIG_ON to DIG_OFF is the loop's waiting (R120, R126). -/
theorem run_dwell_waitDwell {v : State} (hr : v.resetIn = false) (h1 : 1 ≤ v.cfg.dwellTicks) :
    run v.cfg.dwellTicks (advance .digOn (v.atPhase .on)) = .next (v.waitDwell.atPhase .off) := by
  obtain ⟨k, hk⟩ : ∃ k, v.cfg.dwellTicks = k + 1 := ⟨v.cfg.dwellTicks - 1, by omega⟩
  rw [hk, run_dwell_whole (s := advance .digOn (v.atPhase .on)) rfl hr hk]
  simp [State.ticked, State.waitDwell, State.atPhase, advance, hk]

/-- The slot of digit `d` (R120, R123 to R127). -/
theorem renderSlot_follows {f : Frame} {v : State} (h : Rendering f v) (d : Fin 4) :
    Follows (10 + v.cfg.dwellTicks) (v.atSlot d) (renderSlot f d v) fun w => afterOff (w.atPhase .off) := by
  have hlen : 10 + v.cfg.dwellTicks = (1 + 6) + (1 + (1 + (v.cfg.dwellTicks + 1))) := by omega
  have hsegs : Follows (1 + 6) (v.atSlot d)
      (renderSegs (encodeGlyph v.cfg f.digits[d]) (List.finRange 7) { v with dIx := d })
      (State.atPhase · .dp) := by
    rw [← h.pattern d, ← renderSegs_setS _ (by simp) _ 0]
    exact renderSegs_follows (v := { v with dIx := d, sIx := 0 }) h.resetIn rfl
  rw [hlen, renderSlot, Flow.andThen_assoc, Flow.andThen_assoc]
  refine hsegs.andThen fun a ha => ?_
  have ka : LoopKeeps { v with dIx := d } a := renderSegs_keeps ha
  have hpoint : a.pt[a.dIx] = f.points[d] := by simp only [ka.pt, ka.dIx, h.pt]
  refine (follows_write (i := .dpWrite) (p := .dp) a (step_dp (ka.resetIn.trans h.resetIn) rfl) rfl
    (by rw [← hpoint]; rfl)).andThen fun b hb => ?_
  have kb : LoopKeeps { v with dIx := d } b := ka.trans (lineWrite_keeps hb)
  have hdigit : b.dIx = d := kb.dIx
  refine (follows_write (i := .digOn) (p := .on) b (step_on (kb.resetIn.trans h.resetIn) rfl) rfl
    (by rw [← hdigit]; rfl)).andThen fun c hc => ?_
  have kc : LoopKeeps { v with dIx := d } c := kb.trans (lineWrite_keeps hc)
  have hdigit' : c.dIx = d := kc.dIx
  have hticks : v.cfg.dwellTicks = c.cfg.dwellTicks := by rw [kc.cfg]
  rw [hticks]
  refine Follows.after_run (run_dwell_waitDwell (kc.resetIn.trans h.resetIn) (hticks ▸ h.ticks)) ?_
  exact follows_write (i := .digOff) (p := .off) c.waitDwell
    (step_off (kc.resetIn.trans h.resetIn) rfl) rfl (by rw [← hdigit']; rfl)

theorem renderSlot_keeps {f : Frame} {d : Fin 4} {v w : State} (h : renderSlot f d v = .ok w) :
    LoopKeeps { v with dIx := d } w := by
  obtain ⟨c, hc, hw⟩ := Flow.andThen_eq_ok h
  obtain ⟨b, hb, hc⟩ := Flow.andThen_eq_ok hc
  obtain ⟨a, ha, hb⟩ := Flow.andThen_eq_ok hb
  have hwait : LoopKeeps c c.waitDwell := ⟨rfl, rfl, rfl, rfl, rfl⟩
  exact ((((renderSegs_keeps ha).trans (lineWrite_keeps hb)).trans (lineWrite_keeps hc)).trans hwait).trans
    (lineWrite_keeps hw)

/-! ## The whole loop -/

theorem drop_finRange_four (d : Fin 4) :
    (List.finRange 4).drop d.val = d :: (List.finRange 4).drop (d.val + 1) := by
  revert d
  decide

/-- The slots from digit `d` on, one after another (R120, R127). -/
theorem renderSlots_follows {f : Frame} {n : Nat} {v : State} {d : Fin 4} (h : Rendering f v)
    (hn : d.val + n = 3) :
    Follows ((n + 1) * (10 + v.cfg.dwellTicks)) (v.atSlot d)
      (renderSlots f ((List.finRange 4).drop d.val) v) State.ended := by
  induction n generalizing v d with
  | zero =>
    have hlast : (List.finRange 4).drop (d.val + 1) = [] := List.drop_eq_nil_iff.mpr (by simp; omega)
    rw [drop_finRange_four, renderSlots_cons, hlast, Nat.succ_mul, Nat.add_comm]
    refine (renderSlot_follows h d).andThen fun w hw => ?_
    have hd : ¬ w.dIx.val < 3 := by rw [(renderSlot_keeps hw).dIx]; exact Nat.not_lt.mpr hn.ge
    rw [afterOff_last (s := w.atPhase .off) hd, Nat.zero_mul]
    rfl
  | succ n ih =>
    rw [drop_finRange_four, renderSlots_cons, Nat.succ_mul, Nat.add_comm]
    refine (renderSlot_follows h d).andThen fun w hw => ?_
    have kw := renderSlot_keeps hw
    have hcfg : v.cfg = w.cfg := kw.cfg.symm
    have hd : w.dIx.val = d.val := congrArg Fin.val kw.dIx
    have hnext : afterOff (w.atPhase .off) = w.atSlot ⟨d.val + 1, by omega⟩ := by
      rw [afterOff_more (s := w.atPhase .off) (show w.dIx.val < 3 by omega)]
      simp only [State.atSlot, State.atPhase, hd]
    rw [hnext, hcfg]
    exact ih (kw.rendering ⟨h.pat, h.pt, h.ticks, h.resetIn⟩) (Nat.succ_add_eq_add_succ d.val n ▸ hn)

theorem renderSteps_eq (cfg : Config) : renderSteps cfg = 1 + 4 * (10 + cfg.dwellTicks) := by
  unfold renderSteps
  omega

/-- From `IDLE` with a well-formed request the steps follow ACCEPT and the whole loop (R120). -/
theorem render_follows {x : List Char8} {rest : List Call} {f : Frame} (hparams : s.cfg.Admissible)
    (hr : s.resetIn = false) (hp : s.phase = .idle) (hc : s.calls = .op 2#2 x :: rest)
    (hx : decodeFrame x = some f) :
    Follows (renderSteps s.cfg) s
      (renderSlots f (List.finRange 4) (State.acceptText { s with calls := rest } x)) State.ended := by
  have haccept : run 1 s = .next (State.acceptText { s with calls := rest } x) :=
    run_succ 0 ((step_request hr hp hc).trans (execAccept_request hp hc))
  have hcfg := acceptText_cfg { s with calls := rest } x
  obtain ⟨-, -, -, -, hreset⟩ := acceptText_leaves { s with calls := rest } x
  have hrendering : Rendering f (State.acceptText { s with calls := rest } x) := {
    pat := by rw [hcfg, acceptText_ok hx]; simp
    pt := by rw [acceptText_ok hx]; rfl
    ticks := by rw [hcfg]; exact hparams.1
    resetIn := hreset.trans hr }
  have hslot : State.acceptText { s with calls := rest } x =
      (State.acceptText { s with calls := rest } x).atSlot 0 := by rw [acceptText_ok hx]; rfl
  have hloop := renderSlots_follows (n := 3) (d := 0) hrendering rfl
  rw [← hslot, hcfg] at hloop
  rw [renderSteps_eq]
  exact Follows.after_run haccept hloop

/-- Settles O30: a refusal is the one step of ACCEPT, and the steps follow the loop to its end or to its
first failed write. -/
theorem stepsImplementRender : Obligations.StepsImplementRender := by
  intro s x rest hparams hr hp hc
  rw [execRender_idle (s := { s with calls := rest }) hp]
  cases hx : decodeFrame x with
  | none =>
    refine ⟨1, _, ?_, run_succ 0 ((step_request hr hp hc).trans (execAccept_request hp hc)), ?_⟩
    · rw [renderSteps_eq]
      omega
    · rw [renderText_malformed hx]
  | some f =>
    obtain ⟨k, hk, hrun⟩ := (render_follows hparams hr hp hc hx).finish
    exact ⟨k, _, hk, hrun, by rw [renderText_ok hx]⟩

/-- Settles O29: the steps follow a loop that raises nothing to its end, which is as O27 says. -/
theorem renderStepByStep : Obligations.RenderStepByStep := by
  intro s x rest f hparams hr hp hc hx hwrites
  have hfollows := render_follows hparams hr hp hc hx
  obtain ⟨v, hv, hdone, hkept⟩ := renderSlots_done (s := { s with calls := rest }) hx hwrites
  rw [hv] at hfollows
  exact ⟨v.ended, hfollows, { hdone with },
    (acceptText_textLatched { s with calls := rest } x).of_same hkept.text hkept.tlen,
    hkept.calls.trans (acceptText_calls _ x)⟩

/-! ## The end of a render -/

/-- The steps to the end of the render under way, where no write fails (R128). -/
def stepsLeft (s : State) : Nat :=
  match s.phase with
  | .idle | .fault => 0
  | .seg => (3 - s.dIx.val) * (10 + s.cfg.dwellTicks) + (7 - s.sIx.val) + (3 + s.cfg.dwellTicks)
  | .dp => (3 - s.dIx.val) * (10 + s.cfg.dwellTicks) + (3 + s.cfg.dwellTicks)
  | .on => (3 - s.dIx.val) * (10 + s.cfg.dwellTicks) + (2 + s.cfg.dwellTicks)
  | .dwell => (3 - s.dIx.val) * (10 + s.cfg.dwellTicks) + (s.dw + 1)
  | .off => (3 - s.dIx.val) * (10 + s.cfg.dwellTicks) + 1

/-- No render takes longer than one from its beginning. -/
theorem stepsLeft_le (h : Invariant s) : stepsLeft s ≤ 4 * (10 + s.cfg.dwellTicks) := by
  have hslots : (3 - s.dIx.val) * (10 + s.cfg.dwellTicks) ≤ 3 * (10 + s.cfg.dwellTicks) :=
    Nat.mul_le_mul_right _ (Nat.sub_le 3 _)
  cases hp : s.phase with
  | dwell =>
    have hdw := (h.dwCounts hp).2
    simp only [stepsLeft, hp]
    omega
  | _ =>
    simp only [stepsLeft, hp]
    omega

/-- A render under way has a step left. -/
theorem stepsLeft_pos (hb : s.busy = true) : 0 < stepsLeft s := by
  cases hp : s.phase with
  | idle | fault => simp [State.busy, hp] at hb
  | _ =>
    simp only [stepsLeft, hp]
    omega

/-- A write that succeeds is one step less to the end. -/
theorem stepsLeft_advance {i : Instr} {n : Fin 12} {v : Level} (hp : stepPhase i = some s.phase)
    (hw : stepWrite i s = some (n, v)) : stepsLeft (advance i (s.wrote n v)) < stepsLeft s := by
  cases i with
  | segWrite =>
    have hp' : s.phase = .seg := (Option.some.inj hp).symm
    by_cases hmore : s.sIx.val < 6
    · rw [advance, afterSeg_more (s := s.wrote n v) hmore]
      simp only [stepsLeft, State.wrote_phase, State.wrote_cfg, State.wrote_dIx, State.wrote_sIx, hp']
      omega
    · rw [advance, afterSeg_last (s := s.wrote n v) hmore]
      simp only [stepsLeft, State.wrote_cfg, State.wrote_dIx, hp']
      omega
  | dpWrite =>
    have hp' : s.phase = .dp := (Option.some.inj hp).symm
    simp [advance, stepsLeft, hp']
  | digOn =>
    have hp' : s.phase = .on := (Option.some.inj hp).symm
    simp only [advance, stepsLeft, State.wrote_cfg, State.wrote_dIx, hp']
    omega
  | digOff =>
    have hp' : s.phase = .off := (Option.some.inj hp).symm
    by_cases hmore : s.dIx.val < 3
    · have hslot : 3 - s.dIx.val = (3 - (s.dIx.val + 1)) + 1 := by omega
      rw [advance, afterOff_more (s := s.wrote n v) hmore]
      simp only [stepsLeft, State.wrote_cfg, State.wrote_dIx, hp', Fin.val_zero]
      rw [hslot, Nat.succ_mul]
      omega
    · rw [advance, afterOff_last (s := s.wrote n v) hmore]
      simp [stepsLeft, hp']
  | _ => simp [stepWrite] at hw

/-- Everything a step of a render can be: a failed write, a write and an advance, or a tick. -/
theorem step_busy_cases (hr : s.resetIn = false) (hb : s.busy = true) (h : step s = .next t) :
    (∃ n v, t = s.writeFailed n v) ∨
    (∃ i n v, stepPhase i = some s.phase ∧ stepWrite i s = some (n, v) ∧ t = advance i (s.wrote n v)) ∨
    s.phase = .dwell ∧ exec .dwell s = .next t := by
  obtain ⟨i, hi, hp, -, hx⟩ := step_of_busy hr hb
  rw [hx] at h
  obtain rfl | ⟨n, v, hw⟩ := strobe_writes hi s
  · exact .inr (.inr ⟨(Option.some.inj hp).symm, h⟩)
  · rw [exec_of_stepWrite hp hw] at h
    cases h
    obtain ⟨-, hl⟩ | ⟨-, hl⟩ := lineWrite_cases n v s <;> rw [hl]
    · exact .inr (.inl ⟨i, n, v, hp, hw, rfl⟩)
    · exact .inl ⟨n, v, rfl⟩

/-- A step of a render is one step less to its end, and asks for no reset. -/
theorem step_stepsLeft (hinv : Invariant s) (hr : s.resetIn = false) (hb : s.busy = true)
    (h : step s = .next t) : stepsLeft t < stepsLeft s ∧ t.resetIn = false := by
  obtain ⟨n, v, rfl⟩ | ⟨i, n, v, hp, hw, rfl⟩ | ⟨hp, hx⟩ := step_busy_cases hr hb h
  · exact ⟨stepsLeft_pos hb, hr⟩
  · obtain ⟨-, ⟨-, -, hreset, -⟩, -⟩ := advance_environment i (s.wrote n v)
    exact ⟨stepsLeft_advance hp hw, hreset.trans hr⟩
  · have hdw := (hinv.dwCounts hp).1
    by_cases hd : 1 < s.dw
    · rw [execDwell_more hp hd] at hx
      cases hx
      refine ⟨?_, hr⟩
      simp only [stepsLeft, State.record_phase, hp, State.record_cfg, State.record_dIx]
      omega
    · rw [execDwell_last hp (Nat.not_lt.mp hd)] at hx
      cases hx
      refine ⟨?_, hr⟩
      simp only [stepsLeft, hp, State.record_cfg, State.record_dIx]
      omega

theorem idle_or_fault_of_not_busy (hb : ¬ s.busy = true) : s.phase = .idle ∨ s.phase = .fault := by
  cases hp : s.phase <;> simp [State.busy, hp] at hb ⊢

/-- A render that has at most `n` steps left ends within `n` steps. -/
theorem run_ends {n : Nat} (hinv : Invariant s) (hr : s.resetIn = false) (hn : stepsLeft s ≤ n) :
    ∃ k t, k ≤ n ∧ run k s = .next t ∧ (t.phase = .idle ∨ t.phase = .fault) := by
  induction n generalizing s with
  | zero =>
    have hb : ¬ s.busy = true := fun hb => absurd (stepsLeft_pos hb) (Nat.not_lt.mpr hn)
    exact ⟨0, s, Nat.le_refl 0, rfl, idle_or_fault_of_not_busy hb⟩
  | succ n ih =>
    by_cases hb : s.busy = true
    · obtain ⟨t, ht⟩ := step_next_of_busy hr hb
      obtain ⟨hlt, hrt⟩ := step_stepsLeft hinv hr hb ht
      obtain ⟨k, u, hk, hrun, hu⟩ := ih (stepKeepsTheInvariant s t hinv ht) hrt (by omega)
      exact ⟨k + 1, u, Nat.succ_le_succ hk, (run_succ k ht).trans hrun, hu⟩
    · exact ⟨0, s, Nat.zero_le _, rfl, idle_or_fault_of_not_busy hb⟩

/-- Settles O31: each step of a render is one less to its end, and there are at most those of one render. -/
theorem renderEndsInBoundedSteps : Obligations.RenderEndsInBoundedSteps := by
  intro s hinv _ hr
  refine run_ends hinv hr ((stepsLeft_le hinv).trans ?_)
  rw [renderSteps_eq]
  exact Nat.le_add_left _ _

end Sys2Proof.Machine
end

section
/-! SUPPORT. Errors (`spec/60_exceptions.md`): a malformed request (R156), a failed write (R157), and what
decides whether a write fails (R152). -/

namespace Sys2Proof.Machine

variable {s t : State}

/-! ## A malformed request -/

/-- One step takes a presented request (R122). -/
theorem step_takes_request {x : List Char8} {rest : List Call} (hr : s.resetIn = false)
    (hp : s.phase = .idle) (hc : s.calls = .op 2#2 x :: rest) :
    step s = .next ({ s with calls := rest }.acceptText x) :=
  (step_request hr hp hc).trans (execAccept_request hp hc)

/-- A well-formed text presented in `IDLE` is accepted by the next step, whatever `ERR` reports (R122). -/
theorem step_accepts {x : List Char8} {rest : List Call} {f : Frame} (hr : s.resetIn = false)
    (hp : s.phase = .idle) (hc : s.calls = .op 2#2 x :: rest) (hx : decodeFrame x = some f) :
    ∃ u, step s = .next u ∧ u.err = .none ∧ u.phase = .seg ∧ u.calls = rest := by
  refine ⟨_, step_takes_request hr hp hc, ?_, ?_, acceptText_calls _ x⟩ <;> rw [acceptText_ok hx]

/-- In `IDLE` no digit shows anything (R32, R33). -/
theorem Invariant.visible_idle (h : Invariant s) (hp : s.phase = .idle) (d : Fin 4) :
    s.visible d = none :=
  if_neg (h.dark (by simp [hp]) (by simp [hp]) (by simp [hp]) d)

/-- Settles O19: the step is ACCEPT's refusal, it keeps the invariant, and it leaves the block in `IDLE`, where
the next request is accepted. -/
theorem malformedRequestIsRefusedAndForgotten : Obligations.MalformedRequestIsRefusedAndForgotten := by
  intro s x rest hr hp hc hx
  have hstep := step_takes_request hr hp hc
  obtain ⟨herr, hphase, hcounters⟩ := acceptText_refused (s := { s with calls := rest }) hx
  obtain ⟨-, hlines, -, -, hreset⟩ := acceptText_leaves { s with calls := rest } x
  have hidle := hphase.trans hp
  exact ⟨_, hstep, herr, hidle, hlines, acceptText_trace _ x, acceptText_sameFrame hx, hcounters,
    acceptText_calls _ x, fun h => (stepKeepsTheInvariant s _ h hstep).visible_idle hidle,
    fun y more f hy => step_accepts (hreset.trans hr) hidle rfl hy⟩

/-! ## A failed write -/

/-- Settles O25: the step ends in the state of a failed write; in `FAULT` nothing is enabled. -/
theorem failedWriteIsFatal : Obligations.FailedWriteIsFatal := by
  refine ⟨fun i s n v hp hw hf => ?_, fun s hp hr => step_fault hr hp, fun s x hp => ?_⟩
  · exact ⟨_, exec_writeFailed hp hw hf, State.writeFailed_trace s n v, State.writeFailed_err s n v,
      State.writeFailed_phase s n v, ⟨rfl, rfl, rfl⟩, writeFailed_sameFrame s n v,
      writeFailed_sameText s n v, sameOtherLines_of_set (State.writeFailed_lines s n v),
      ⟨rfl, rfl, rfl, rfl⟩, ⟨rfl, rfl⟩⟩
  · have hidle : s.phase ≠ .idle := by simp [hp]
    exact ⟨if_neg hidle, exec_notEnabled rfl hidle⟩

/-! ## Where no write fails -/

/-- After a successful write the sequencer does not go to `FAULT` (R123 to R125, R127). -/
theorem advance_ne_fault (i : Instr) (h : s.phase ≠ .fault) : (advance i s).phase ≠ .fault := by
  cases i with
  | segWrite =>
    by_cases h6 : s.sIx.val < 6
    · rwa [advance, afterSeg_more h6]
    · rw [advance, afterSeg_last h6]; nofun
  | digOff =>
    by_cases h3 : s.dIx.val < 3
    · rw [advance, afterOff_more h3]; nofun
    · rw [advance, afterOff_last h3]; nofun
  | dpWrite | digOn => exact nofun
  | _ => exact h

/-- ACCEPT does not lead to `FAULT`, whatever its verdict (R122, R156). -/
theorem acceptText_ne_fault (x : List Char8) (h : s.phase ≠ .fault) :
    (s.acceptText x).phase ≠ .fault := by
  cases hx : decodeFrame x with
  | none =>
    obtain ⟨-, hphase, -⟩ := acceptText_refused (s := s) hx
    rwa [hphase]
  | some f => rw [acceptText_ok hx]; nofun

/-- RENDER in which no write fails ends in `IDLE`, or in the phase it was refused in (R130, R133). -/
theorem renderText_ne_fault (x : List Char8) (hn : NoWriteFails 40 s) (h : s.phase ≠ .fault) :
    (renderText x s).phase ≠ .fault := by
  cases hx : decodeFrame x with
  | none =>
    rw [renderText_malformed hx]
    exact acceptText_ne_fault x h
  | some f =>
    obtain ⟨v, hv, -, -⟩ := renderSlots_done hx hn
    rw [renderText_ok hx, hv]
    nofun

/-- A step kind whose line write does not fail does not lead into `FAULT` (R157). -/
theorem exec_write_ne_fault {i : Instr} {p : Phase} {n : Fin 12} {v : Level} (hi : stepPhase i = some p)
    (hw : stepWrite i s = some (n, v)) (hf : s.writeFails = false) (h : s.phase ≠ .fault)
    (hx : exec i s = .next t) : t.phase ≠ .fault := by
  by_cases hp : s.phase = p
  · rw [(exec_writeOk (hp ▸ hi) hw hf).1] at hx
    cases hx
    exact advance_ne_fault i h
  · rw [exec_notEnabled hi hp] at hx
    cases hx

/-- DWELL goes to `OFF` or stays (R126). -/
theorem execDwell_ne_fault (hx : exec .dwell s = .next t) : t.phase ≠ .fault := by
  by_cases hp : s.phase = .dwell
  · by_cases hd : 1 < s.dw
    · rw [execDwell_more hp hd] at hx
      cases hx
      simp [hp]
    · rw [execDwell_last hp (Nat.not_lt.mp hd)] at hx
      cases hx
      nofun
  · rw [exec_notEnabled rfl hp] at hx
    cases hx

/-- Where `IO_MAY_FAIL` is false no instruction leads into `FAULT` (R6, R157). -/
theorem exec_ne_fault {i : Instr} (hn : s.cfg.ioMayFail = false) (h : s.phase ≠ .fault)
    (hx : exec i s = .next t) : t.phase ≠ .fault := by
  have hf := writeFails_of_never hn
  cases i with
  | segWrite | dpWrite | digOn | digOff => exact exec_write_ne_fault rfl rfl hf h hx
  | dwell => exact execDwell_ne_fault hx
  | accept =>
    simp only [exec, execAccept] at hx
    split at hx <;> cases hx
    exact acceptText_ne_fault (s := { s with calls := _ }) _ h
  | render x =>
    by_cases hp : s.phase = .idle
    · rw [execRender_idle hp] at hx
      cases hx
      exact renderText_ne_fault x (.inl hn) h
    · obtain ⟨-, refused⟩ := renderRefusals
      rw [refused s x hp] at hx
      cases hx
  | _ =>
    cases hx
    exact h

/-- Settles O26: the listed answer is the write's, and without failing writes `FAULT` is not entered. -/
theorem answersDecideTheWrites : Obligations.AnswersDecideTheWrites :=
  ⟨fun s b bs ha hm => by rw [writeFails_of_head ha, hm, Bool.true_and],
    fun _ _ _ hn hx ht => Decidable.by_contra fun h => exec_ne_fault hn h hx ht⟩

end Sys2Proof.Machine
end

section
/-! SUPPORT. Runs (`spec/70_reset_and_hazards.md` R170, R176, R183): reset, what a caller has outstanding, the
good end, and what became of every request taken since the last reset. -/

namespace Sys2Proof.Machine

variable {s t : State}

/-! ## Reset -/

/-- Settles O6: a reset overwrites every register R31 fixes, and in `FAULT` there is no other step. -/
theorem resetFromEveryState : Obligations.ResetFromEveryState := by
  refine ⟨fun s hr => ?_, fun s t hp h => ?_⟩
  · exact ⟨s.doReset, step_reset hr, rfl, rfl, rfl, rfl, rfl, rfl, resetWith_dig s.cfg, rfl, rfl⟩
  · by_contra hr
    rw [step_fault (Bool.eq_false_of_not_eq_true hr) hp] at h
    cases h

/-! ## The good end and the outstanding calls -/

/-- Settles O42: the invariant of `IDLE` is dark, and a step with nothing presented is the waiting step. -/
theorem goodEndIsDarkAndStable : Obligations.GoodEndIsDarkAndStable := by
  intro s h ⟨hc, hp⟩ hr
  have hinv := reachableStatesMeetTheInvariant s h
  have dark := hinv.dark (by simp [hp]) (by simp [hp]) (by simp [hp])
  exact ⟨fun d => ⟨(eq_inactive_iff s _).mpr (dark d), hinv.visible_idle hp d⟩, step_wait hr hp hc⟩

/-- A step leaves `IDLE` only by taking a call (R122, R170). -/
theorem step_takes_call_of_leaving_idle (hp : s.phase = .idle) (ht : t.phase ≠ .idle)
    (h : step s = .next t) : ∃ c, s.calls = c :: t.calls := by
  obtain ⟨-, rfl⟩ | ⟨-, ⟨-, x, rest, hc, rfl⟩ | ⟨-, hc⟩ | hx⟩ := step_cases h
  · exact absurd rfl ht
  · exact ⟨_, by rw [acceptText_calls, hc]⟩
  · rw [hc] at ht
    exact absurd hp ht
  · simp [hp] at hx

/-- Settles O43, by induction on the run: a call is presented in `IDLE` with none outstanding, and the step
that leaves `IDLE` takes it. -/
theorem nothingIsPresentedDuringARender : Obligations.NothingIsPresentedDuringARender := by
  intro s h
  induction h with
  | reset h => simp [h.calls]
  | @step s t _ hs ih =>
    obtain ⟨hlen, hnone⟩ := ih
    refine ⟨?_, fun ht => ?_⟩
    · obtain hc | ⟨-, c, hc⟩ := step_calls hs
      · rwa [hc]
      · rw [hc, List.length_cons] at hlen
        omega
    · by_cases hp : s.phase = .idle
      · obtain ⟨c, hc⟩ := step_takes_call_of_leaving_idle hp ht hs
        rw [hc, List.length_cons] at hlen
        exact List.eq_nil_of_length_eq_zero (by omega)
      · obtain hc | ⟨hi, -⟩ := step_calls hs
        · rw [hc, hnone hp]
        · exact absurd hi hp
  | env _ he ih =>
    cases he with
    | present n x i _ idle _ => exact ⟨Nat.le_refl 1, absurd idle⟩
    | answer => exact ih
    | askReset => exact ih

/-! ## The events a render has left -/

/-- The events of the slots after digit `d`'s in a render of `f` (R128). -/
def slotsAfter (cfg : Config) (f : Frame) (d : Fin 4) : List Event :=
  ((List.finRange 4).drop (d.val + 1)).flatMap (slotTrace cfg f)

/-- The events still to come in a render of `f` in which no write fails: those of the slot under way, as the
sequencer and the frame latch have it, and those of the slots after it (R121, R128). -/
def eventsLeft (f : Frame) (s : State) : List Event :=
  let fromOff := .w (digLine s.dIx) s.inactive :: slotsAfter s.cfg f s.dIx
  let fromOn := .w (digLine s.dIx) s.active :: (List.replicate s.cfg.dwellTicks .tick ++ fromOff)
  let fromDp := .w dpLine (Level.ofBool (!s.pt[s.dIx])) :: fromOn
  match s.phase with
  | .idle | .fault => []
  | .seg => ((List.finRange 7).drop s.sIx.val).map
      (fun i => .w (segLine i) (s.pat[s.dIx])[i.val]) ++ fromDp
  | .dp => fromDp
  | .on => fromOn
  | .dwell => List.replicate s.dw .tick ++ fromOff
  | .off => fromOff

/-- The frame latch holds `f` and its patterns (R22). -/
def LatchHolds (f : Frame) (s : State) : Prop :=
  s.pat = perDigit (encodeGlyph s.cfg) f ∧ s.pt = f.points

/-- At the beginning of a slot the events left are the whole slot's and those of the slots after it. -/
theorem eventsLeft_slotStart {f : Frame} (hl : LatchHolds f s) (hp : s.phase = .seg) (hs : s.sIx = 0) :
    eventsLeft f s = ((List.finRange 4).drop s.dIx.val).flatMap (slotTrace s.cfg f) := by
  obtain ⟨hpat, hpt⟩ := hl
  have hslot : s.pat[s.dIx] = encodeGlyph s.cfg f.digits[s.dIx] := by
    rw [hpat]
    exact perDigit_getElem _ f _ s.dIx.isLt
  rw [drop_finRange_four, List.flatMap_cons]
  simp [eventsLeft, slotTrace, slotsAfter, hp, hs, hslot, hpt, State.active, State.inactive]

/-- A successful write is the first of the events left, and the others are left after it (R123 to R125,
R127). -/
theorem eventsLeft_write {f : Frame} {i : Instr} {n : Fin 12} {v : Level} (hl : LatchHolds f s)
    (hp : stepPhase i = some s.phase) (hw : stepWrite i s = some (n, v)) :
    eventsLeft f s = .w n v :: eventsLeft f (advance i (s.wrote n v)) := by
  cases i with
  | segWrite =>
    obtain ⟨rfl, rfl⟩ := Prod.mk.inj (Option.some.inj hw)
    have hp' : s.phase = .seg := (Option.some.inj hp).symm
    by_cases hmore : s.sIx.val < 6
    · rw [advance, afterSeg_more (s := s.wrote _ _) hmore]
      simp [eventsLeft, hp', drop_finRange_seven, State.active, State.inactive]
    · have hlast : (List.finRange 7).drop (s.sIx.val + 1) = [] :=
        List.drop_eq_nil_iff.mpr (by simp; omega)
      rw [advance, afterSeg_last (s := s.wrote _ _) hmore]
      simp [eventsLeft, hp', drop_finRange_seven s.sIx, hlast, State.active, State.inactive]
  | dpWrite | digOn =>
    obtain ⟨rfl, rfl⟩ := Prod.mk.inj (Option.some.inj hw)
    simp [eventsLeft, ← Option.some.inj hp, advance, State.active, State.inactive]
  | digOff =>
    obtain ⟨rfl, rfl⟩ := Prod.mk.inj (Option.some.inj hw)
    have hp' : s.phase = .off := (Option.some.inj hp).symm
    have hleft : eventsLeft f s = .w (digLine s.dIx) s.inactive :: slotsAfter s.cfg f s.dIx := by
      simp [eventsLeft, hp']
    by_cases hmore : s.dIx.val < 3
    · rw [hleft, advance, afterOff_more (s := s.wrote _ _) hmore]
      refine congrArg (List.cons _) (Eq.symm ?_)
      exact eventsLeft_slotStart hl rfl rfl
    · have hlast : (List.finRange 4).drop (s.dIx.val + 1) = [] :=
        List.drop_eq_nil_iff.mpr (by simp; omega)
      rw [hleft, advance, afterOff_last (s := s.wrote _ _) hmore, slotsAfter, hlast]
      rfl
  | _ => simp [stepWrite] at hw

/-- A tick is the first of the events left in a dwell (R126). -/
theorem eventsLeft_dwell (f : Frame) (h1 : 1 ≤ s.dw) (hp : s.phase = .dwell)
    (hx : exec .dwell s = .next t) : eventsLeft f s = .tick :: eventsLeft f t := by
  obtain ⟨k, hk⟩ : ∃ k, s.dw = k + 1 := ⟨s.dw - 1, by omega⟩
  by_cases hd : 1 < s.dw
  · rw [execDwell_more hp hd] at hx
    cases hx
    simp [eventsLeft, hp, hk, List.replicate_succ, State.inactive]
  · obtain rfl : k = 0 := by omega
    rw [execDwell_last hp (Nat.not_lt.mp hd)] at hx
    cases hx
    simp [eventsLeft, hp, hk, State.inactive]

/-! ## A render under way -/

/-- A render of `f` that began when `TRACE` was `base`: what it has recorded since and what it has left make
up its events (R128). -/
structure Underway (f : Frame) (base : List Event) (s : State) : Prop where
  latch : LatchHolds f s
  events : ∃ p, s.trace = base ++ p ∧ p ++ eventsLeft f s = renderTrace s.cfg f

section Underway
variable {f : Frame} {base : List Event}

/-- The next of the events left is recorded. -/
theorem Underway.record (h : Underway f base s) {e : Event} (hleft : eventsLeft f s = e :: eventsLeft f t)
    (htrace : t.trace = s.trace ++ [e]) (hcfg : t.cfg = s.cfg) (hf : SameFrame s t) :
    Underway f base t := by
  obtain ⟨hpat, hpt⟩ := h.latch
  obtain ⟨p, hp, hall⟩ := h.events
  obtain ⟨-, hpat', hpt'⟩ := hf
  refine ⟨⟨by rw [hpat', hcfg, hpat], hpt'.trans hpt⟩, p ++ [e], ?_, ?_⟩
  · rw [htrace, hp, List.append_assoc]
  · rw [hcfg, ← hall, hleft, List.append_assoc, List.singleton_append]

theorem Underway.write (h : Underway f base s) {i : Instr} {n : Fin 12} {v : Level}
    (hp : stepPhase i = some s.phase) (hw : stepWrite i s = some (n, v)) :
    Underway f base (advance i (s.wrote n v)) := by
  have q := sequencerOnly_advance i (s.wrote n v)
  obtain ⟨htrace, -⟩ := advance_environment i (s.wrote n v)
  exact h.record (eventsLeft_write h.latch hp hw) htrace q.text.1 q.frame

theorem Underway.dwell (h : Underway f base s) (h1 : 1 ≤ s.dw) (hp : s.phase = .dwell)
    (hx : exec .dwell s = .next t) : Underway f base t := by
  obtain ⟨htext, hframe, -⟩ := exec_leavesLatches (i := .dwell) nofun nofun hx
  exact h.record (eventsLeft_dwell f h1 hp hx) (exec_dwell_ticks hx).1 htext.1 hframe

/-- Back in `IDLE` the render has recorded all its events (R133). -/
theorem Underway.trace_of_idle (h : Underway f base s) (hp : s.phase = .idle) :
    s.trace = base ++ renderTrace s.cfg f := by
  obtain ⟨p, htrace, hall⟩ := h.events
  have hnone : eventsLeft f s = [] := by simp [eventsLeft, hp]
  rw [htrace, ← hall, hnone, List.append_nil]

end Underway

/-- ACCEPT of a well-formed text begins its render (R122). -/
theorem acceptText_underway {x : List Char8} {f : Frame} (hx : decodeFrame x = some f) (s : State) :
    Underway f s.trace (s.acceptText x) := by
  have hlatch : LatchHolds f (s.acceptText x) := by
    rw [acceptText_ok hx]
    exact ⟨by simp, rfl⟩
  refine ⟨hlatch, [], by simp, ?_⟩
  rw [List.nil_append, eventsLeft_slotStart hlatch] <;> rw [acceptText_ok hx]
  rfl

/-! ## What became of the requests -/

theorem rendersOf_append_ok {x : List Char8} {f : Frame} (hx : decodeFrame x = some f) (cfg : Config)
    (xs : List (List Char8)) : rendersOf cfg (xs ++ [x]) = rendersOf cfg xs ++ renderTrace cfg f := by
  simp [rendersOf, List.filterMap_append, hx]

theorem rendersOf_append_malformed {x : List Char8} (hx : decodeFrame x = none) (cfg : Config)
    (xs : List (List Char8)) : rendersOf cfg (xs ++ [x]) = rendersOf cfg xs := by
  simp [rendersOf, List.filterMap_append, hx]

theorem verdict_append_ok {x : List Char8} {f : Frame} (hx : decodeFrame x = some f)
    (xs : List (List Char8)) : verdict (xs ++ [x]) = .none := by
  simp [verdict, hx]

theorem verdict_append_malformed {x : List Char8} (hx : decodeFrame x = none)
    (xs : List (List Char8)) : verdict (xs ++ [x]) = .malformedDisplayString := by
  simp [verdict, hx]

/-- What a state of a run shows of the requests `xs` taken since the last reset, phase by phase. -/
structure History (xs : List (List Char8)) (s : State) : Prop where
  idle : s.phase = .idle → s.trace = rendersOf s.cfg xs ∧ s.err = verdict xs
  busy : s.busy = true → ∃ xs' x f, xs = xs' ++ [x] ∧ decodeFrame x = some f ∧
    Underway f (rendersOf s.cfg xs') s
  fault : s.phase = .fault → ∃ xs' x f p n v, xs = xs' ++ [x] ∧ decodeFrame x = some f ∧
    p ++ [.w n v] <+: renderTrace s.cfg f ∧ s.trace = rendersOf s.cfg xs' ++ p ++ [.wf n v]

section History
variable {xs : List (List Char8)}

theorem History.of_idle (hp : s.phase = .idle) (htrace : s.trace = rendersOf s.cfg xs)
    (herr : s.err = verdict xs) : History xs s where
  idle _ := ⟨htrace, herr⟩
  busy hb := by simp [State.busy, hp] at hb
  fault hf := by simp [hp] at hf

/-- A render under way, or just ended, is the last request's. -/
theorem History.of_underway {x : List Char8} {f : Frame} (hx : decodeFrame x = some f)
    (h : Underway f (rendersOf s.cfg xs) s) (hf : s.phase ≠ .fault) (herr : s.err = .none) :
    History (xs ++ [x]) s where
  idle hp := ⟨(h.trace_of_idle hp).trans (rendersOf_append_ok hx s.cfg xs).symm,
    herr.trans (verdict_append_ok hx xs).symm⟩
  busy _ := ⟨xs, x, f, rfl, hx, h⟩
  fault hp := absurd hp hf

/-- The failed write is that of the next of the events left (R157). -/
theorem History.of_writeFailed {x : List Char8} {f : Frame} (hx : decodeFrame x = some f)
    (h : Underway f (rendersOf s.cfg xs) s) {i : Instr} {n : Fin 12} {v : Level}
    (hp : stepPhase i = some s.phase) (hw : stepWrite i s = some (n, v)) :
    History (xs ++ [x]) (s.writeFailed n v) where
  idle := nofun
  busy := nofun
  fault _ := by
    obtain ⟨p, htrace, hall⟩ := h.events
    refine ⟨xs, x, f, p, n, v, rfl, hx, ⟨eventsLeft f (advance i (s.wrote n v)), ?_⟩, ?_⟩
    · rw [State.writeFailed_cfg, ← hall, eventsLeft_write h.latch hp hw]
      simp
    · rw [State.writeFailed_trace, htrace, State.writeFailed_cfg]

/-- The environment's moves do not touch what the block has recorded. -/
theorem History.envMove (h : History xs s) (he : EnvMove s t) : History xs t := by
  cases he <;> exact { h with
    busy := fun hb =>
      let ⟨xs', x, f, hxs, hx, hu⟩ := h.busy hb
      ⟨xs', x, f, hxs, hx, { hu with }⟩ }

/-- A reset begins a new history (R170). -/
theorem history_doReset (s : State) : History [] s.doReset := .of_idle rfl rfl rfl

/-! ## The steps of a history -/

/-- The oldest call is a request to take in `IDLE`, or no request is taken (R122). -/
theorem taken_cases (s : State) :
    (∃ x rest, s.phase = .idle ∧ s.calls = .op 2#2 x :: rest ∧ s.taken = [x]) ∨
      (∀ x rest, ¬(s.phase = .idle ∧ s.calls = .op 2#2 x :: rest)) ∧ s.taken = [] := by
  unfold State.taken
  split
  · rename_i x rest hp hc
    exact .inl ⟨x, rest, hp, hc, rfl⟩
  · rename_i hno
    exact .inr ⟨fun x rest ⟨hp, hc⟩ => hno x rest hp hc, rfl⟩

/-- A step that takes a request (R122): a refusal stays in `IDLE`, an accepted text's render begins. -/
theorem History.request (h : History xs s) {x : List Char8} {rest : List Call} (hr : s.resetIn = false)
    (hp : s.phase = .idle) (hc : s.calls = .op 2#2 x :: rest) (hs : step s = .next t) :
    History (xs ++ [x]) t := by
  obtain ⟨htrace, -⟩ := h.idle hp
  rw [step_takes_request hr hp hc] at hs
  cases hs
  have hcfg := acceptText_cfg { s with calls := rest } x
  cases hx : decodeFrame x with
  | none =>
    obtain ⟨herr, hphase, -⟩ := acceptText_refused (s := { s with calls := rest }) hx
    refine .of_idle (hphase.trans hp) ?_ (herr.trans (verdict_append_malformed hx xs).symm)
    rw [hcfg, rendersOf_append_malformed hx, acceptText_trace]
    exact htrace
  | some f =>
    have hu := acceptText_underway hx { s with calls := rest }
    refine .of_underway hx ?_ ?_ ?_
    · rw [hcfg, ← htrace]
      exact hu
    · exact acceptText_ne_fault (s := { s with calls := rest }) x (by simp [hp])
    · rw [acceptText_ok hx]

/-- A step in `IDLE` that takes no request (R121, R165). -/
theorem History.wait (h : History xs s) (hr : s.resetIn = false) (hp : s.phase = .idle)
    (hq : ∀ x rest, ¬(s.phase = .idle ∧ s.calls = .op 2#2 x :: rest)) (hs : step s = .next t) :
    History xs t := by
  obtain ⟨htrace, herr⟩ := h.idle hp
  obtain ⟨hr', -⟩ | ⟨-, ⟨-, x, rest, hc, -⟩ | ⟨-, hc⟩ | hx⟩ := step_cases hs
  · simp [hr] at hr'
  · exact absurd ⟨hp, hc⟩ (hq x rest)
  · rw [hc]
    exact .of_idle hp htrace herr
  · simp [hp] at hx

/-- Everything a step of a render can be: a tick, or the phase's line write, succeeded or failed. -/
theorem step_render_cases (hr : s.resetIn = false) (hb : s.busy = true) (h : step s = .next t) :
    (s.phase = .dwell ∧ exec .dwell s = .next t) ∨
      ∃ i n v, stepPhase i = some s.phase ∧ stepWrite i s = some (n, v) ∧
        (t = advance i (s.wrote n v) ∨ t = s.writeFailed n v) := by
  obtain ⟨i, hi, hp, -, hx⟩ := step_of_busy hr hb
  rw [hx] at h
  obtain rfl | ⟨n, v, hw⟩ := strobe_writes hi s
  · exact .inl ⟨(Option.some.inj hp).symm, h⟩
  · refine .inr ⟨i, n, v, hp, hw, ?_⟩
    rw [exec_of_stepWrite hp hw] at h
    cases h
    obtain ⟨-, hl⟩ | ⟨-, hl⟩ := lineWrite_cases n v s <;> rw [hl]
    · exact .inl rfl
    · exact .inr rfl

/-- A step of a render records the next of its events, or the failure of that write (R128, R157). -/
theorem History.render (h : History xs s) (hinv : Invariant s) (hr : s.resetIn = false)
    (hb : s.busy = true) (hs : step s = .next t) : History xs t := by
  obtain ⟨xs, x, f, rfl, hx, hu⟩ := h.busy hb
  obtain ⟨-, hfault⟩ : s.phase ≠ .idle ∧ s.phase ≠ .fault := by simpa [State.busy] using hb
  have herr := hinv.errBusy hb
  have hcfg := step_cfg hs
  obtain ⟨hp, he⟩ | ⟨i, n, v, hp, hw, rfl | rfl⟩ := step_render_cases hr hb hs
  · have hf := execDwell_ne_fault he
    refine .of_underway hx (hcfg ▸ hu.dwell (hinv.dwCounts hp).1 hp he) hf ?_
    obtain hsame | ⟨-, ht⟩ := (exec_leavesLatches (i := .dwell) nofun nofun he).err
    · exact hsame.trans herr
    · exact absurd ht hf
  · exact .of_underway hx (hcfg ▸ hu.write hp hw) (advance_ne_fault i hfault)
      ((sequencerOnly_advance i (s.wrote n v)).err.trans herr)
  · exact .of_writeFailed hx hu hp hw

/-- A step without a reset adds the request it takes, if it takes one, to the history. -/
theorem History.step (h : History xs s) (hinv : Invariant s) (hr : s.resetIn = false)
    (hs : step s = .next t) : History (xs ++ s.taken) t := by
  obtain ⟨x, rest, hp, hc, htaken⟩ | ⟨hq, htaken⟩ := taken_cases s <;> rw [htaken]
  · exact h.request hr hp hc hs
  · rw [List.append_nil]
    by_cases hb : s.busy = true
    · exact h.render hinv hr hb hs
    · obtain hp | hp := idle_or_fault_of_not_busy hb
      · exact h.wait hr hp hq hs
      · rw [step_fault hr hp] at hs
        cases hs

end History

/-! ## Runs and their histories -/

/-- A state with a history is met by a run. -/
theorem RunOf.reachable {xs : List (List Char8)} (h : RunOf xs s) : Reachable s := by
  induction h with
  | reset h => exact .reset h
  | step _ _ hs ih => exact ih.step hs
  | restart _ _ hs ih => exact ih.step hs
  | env _ he ih => exact ih.env he

/-- A state a run meets has a history. -/
theorem Reachable.exists_runOf (h : Reachable s) : ∃ xs, RunOf xs s := by
  induction h with
  | reset h => exact ⟨[], .reset h⟩
  | @step s t _ hs ih =>
    obtain ⟨xs, h⟩ := ih
    cases hr : s.resetIn with
    | true => exact ⟨[], h.restart hr hs⟩
    | false => exact ⟨xs ++ s.taken, h.step hr hs⟩
  | env _ he ih =>
    obtain ⟨xs, h⟩ := ih
    exact ⟨xs, h.env he⟩

/-- Every run shows what became of the requests it has taken, by induction on the run. -/
theorem RunOf.history {xs : List (List Char8)} (h : RunOf xs s) : History xs s := by
  induction h with
  | reset h => exact .of_idle h.reset.phase h.reset.trace h.reset.err
  | step h hr hs ih => exact ih.step (reachableStatesMeetTheInvariant _ h.reachable) hr hs
  | restart _ hr hs _ =>
    rw [step_reset hr] at hs
    cases hs
    exact history_doReset _
  | env _ he ih => exact ih.envMove he

/-- Settles O48: the history of the run, phase by phase. -/
theorem everyRequestIsAccountedFor : Obligations.EveryRequestIsAccountedFor := by
  refine ⟨fun s => ⟨Reachable.exists_runOf, fun ⟨_, h⟩ => h.reachable⟩, fun xs s h => ?_⟩
  obtain ⟨idle, busy, fault⟩ := h.history
  refine ⟨idle, fun hb => ?_, fault⟩
  obtain ⟨xs', x, f, hxs, hx, hu⟩ := busy hb
  obtain ⟨p, htrace, hall⟩ := hu.events
  exact ⟨xs', x, f, p, hxs, hx, ⟨eventsLeft f s, hall⟩, htrace⟩

/-- Settles O44: the frames are those of the well-formed requests of the run's history. -/
theorem traceInIdleIsWholeRenders : Obligations.TraceInIdleIsWholeRenders := by
  intro s h hp
  obtain ⟨xs, hrun⟩ := h.exists_runOf
  obtain ⟨htrace, -⟩ := hrun.history.idle hp
  exact ⟨xs.filterMap decodeFrame, htrace⟩

end Sys2Proof.Machine
end
